-- ==== Sys2Proof/Word.lean ====
section
/-! DEFINITION. The word widths of the Ulsen 7400: bytes, 16-bit lug numbers and counts, 32- and 64-bit counters. -/

namespace Sys2Proof

/-- A byte of a memory location. -/
abbrev Byte := BitVec 8
/-- A 16-bit wrapping number: lug numbers, sequence counts, producer and consumer counts, stamps. -/
abbrev Half := BitVec 16
/-- A 32-bit counter. -/
abbrev Word := BitVec 32
/-- A 64-bit total. -/
abbrev Quad := BitVec 64
/-- A set of the saws 0 to 12, bit k for saw k (R89). -/
abbrev SawSet := BitVec 13

end Sys2Proof
end

