-- ==== Sys2Proof/Syntax.lean ====
section
/-! DEFINITION. The commands: one constructor for each row of spec/opcode_table.json, with the row's operands. -/

namespace Sys2Proof

/-- An upstream write (Table 1-3): its first byte's address, each byte with its byte enable, and the answer that
memory gives it if the part forwards it (true: good; none: RESET_N goes low before memory answers, R148). -/
structure BusWrite where
  addr : Nat
  bytes : List (Byte × Bool)
  answer : Option Bool
  deriving DecidableEq, Repr

/-- An upstream read: its first byte's address and the byte enable of each of its bytes. -/
structure BusRead where
  addr : Nat
  enables : List Bool
  deriving DecidableEq, Repr

/-- The two moments of an upstream read at the part: its acceptance (R156 may hold it) and memory's answer to it
(R158 acts on the data a good answer returned; byte i of `data` is the byte at `addr + i`). -/
inductive ReadEvent where
  | accept (r : BusRead)
  | answer (r : BusRead) (good : Bool) (data : List Byte)
  deriving DecidableEq, Repr

/-- The tasks of one lug event whose order R9 and R145 leave open: the new lug enters scan (R8), the closing, commit
and sort positions of Table 1-7, and the publications of the status block and of the statistics record (R7). -/
inductive LugTask where
  | enter
  | close
  | commit
  | sort
  | status
  | statistics
  deriving DecidableEq, Repr

/-- The commands. The four consuming-read rows carry any upstream read, the three write rows any upstream write: the
part decides what it is by its offset and by the state (R150 to R152, R158; log entries 7 and 9). -/
inductive Instr where
  | reset
  | resetRelease (arenaSel : BitVec 6)
  | initialPublicationEnd
  | lugEvent (order : List LugTask)
  | watchedWrite (w : BusWrite)
  | guardedWrite (w : BusWrite)
  | frameArrival (w : BusWrite)
  | overrideGrade (station : Byte) (lug : Half) (grade : Byte)
  | overrideTrim (station : Byte) (lug : Half) (a b : Byte)
  | overrideReman (station : Byte) (lug : Half)
  | overrideCancel (station : Byte) (lug : Half)
  | overrideUnknownKind (kind station : Byte) (lug : Half)
  | startLine
  | drainLine
  | stopLine
  | bankSwitch (bank lug : Half)
  | sawMask (saws : Half)
  | headEnable (heads : Half)
  | runNew
  | runAdvance
  | binHold (bin : Half)
  | binEmpty (bin : Half)
  | noticeRoute (kind route : Half)
  | statsClear
  | commandUnknown (code : Byte)
  | solveBegin
  | solveCompletion
  | headStatusConsumingRead (e : ReadEvent)
  | runRecordConsumingRead (e : ReadEvent)
  | trimSortConsumingRead (e : ReadEvent)
  | noticeConsumingRead (e : ReadEvent)
  | injectedWriteAnswer (index : Nat) (good : Bool)
  deriving DecidableEq, Repr

end Sys2Proof
end

