-- ==== Sys2Proof/Decode.lean ====
section
/-! DEFINITION. The command a word spells by the table's bits: the table gives no row any bits, so no word spells one. -/

namespace Sys2Proof

/-- spec/opcode_table.json gives every row an empty list of fields: no word of any length spells a command. -/
def decodeTableWord (_nbits _w : Nat) : Option Instr := none

end Sys2Proof
end

