-- ==== Sys2Proof/Config.lean ====
section
/-! DEFINITION. The values the manual leaves open: constants with no body, so that no proof can see what they are. -/

namespace Sys2Proof

/-- The byte a head status record shows at 08H while the head's expected sequence is unset.
The text of chapter 12.5 gives 09H the value 0 then and gives 08H none (log entry 12).
The arguments are the number of the command that publishes, the head and the stamp, so that each publication may show
another byte. -/
opaque Config.unsetSequenceByte : Nat → Nat → Nat → Byte

/-- The 16 bits the status block shows at 46H while no switch is pending.
Table 12-5 gives 44H the value FFH then and gives 46H none (log entry 12).
The arguments are the number of the command that publishes and the stamp. -/
opaque Config.noPendingLug : Nat → Nat → Half

end Sys2Proof
end

