-- ==== Sys2Proof/Machine/State.lean ====
section
/-! DEFINITION. The state of the Ulsen 7400: every piece the manual gives it, as plain data, and its reset values. -/

namespace Sys2Proof.Machine

/-- Table 1-4. -/
inductive LineState where
  | init | idle | run | drain
  deriving DecidableEq, Repr

/-- Table 1-9. -/
inductive BoardState where
  | free | measuring | awaiting | queued | solving | solved | committed
  deriving DecidableEq, Repr

/-- Table 3-5. -/
inductive RunState where
  | free | opened | finishing | closed
  deriving DecidableEq, Repr

/-- The two table banks. -/
inductive BankId where
  | a | b
  deriving DecidableEq, Repr

/-- Table 10-6. -/
inductive BankState where
  | active | held | spare
  deriving DecidableEq, Repr

/-- Table 7-6. -/
inductive BinState where
  | opened | full | hold
  deriving DecidableEq, Repr

/-- State of a trim or sort ring slot (Table 7-4). -/
inductive SlotState where
  | empty | written | consumed
  deriving DecidableEq, Repr

/-- What an override asks for (Table 6-1). CANCEL is never attached. -/
inductive OverrideAction where
  | grade (g : Fin 7)
  | trim (a b : Fin 13)
  | reman
  deriving DecidableEq, Repr

/-- An override as it is held or attached: its station, kind and arguments (R100). -/
structure Override where
  station : Fin 8
  action : OverrideAction
  deriving DecidableEq, Repr

/-- Table 1-6. -/
structure LugEntry where
  lug : Half
  board : Option (Fin 64)
  override : Option Override
  closed : Bool
  deriving DecidableEq, Repr

/-- The values fixed by an accepted START_LINE (R3, Table 10-4). Entry i of `capacity` and `alternate` is for bin i + 1. -/
structure LineConfig where
  w : Nat
  c : Nat
  s : Nat
  slices : Vector Nat 8
  ranks : Vector Nat 8
  capacity : Vector Nat 40
  alternate : Vector Nat 40
  deriving DecidableEq, Repr

/-- A cell's accumulation while its board is MEASURING (R34, R37). -/
structure Accumulation where
  present : Nat
  t : Nat
  w : Nat
  n : Nat
  deriving DecidableEq, Repr

/-- One entry of a board's cell table (R44); `reduced` is false until measurement close. -/
structure Cell where
  t : Nat
  w : Nat
  n : Nat
  present : Bool
  known : Bool
  reduced : Bool
  grade : Nat
  deriving DecidableEq, Repr

/-- A defect of a board (R39); kinds 0 to 7 in the order of chapter 12.3. -/
structure Defect where
  cell : Nat
  kind : Nat
  size : Nat
  deriving DecidableEq, Repr

inductive RequestClass where
  | first | resolve
  deriving DecidableEq, Repr

/-- The credit a request holds (Table 5-2). -/
inductive Credit where
  | shared | reservedFirst | reservedResolve
  deriving DecidableEq, Repr

/-- Why a plan is REMAN (Table 5-4). -/
inductive RemanReason where
  | noCandidate | zeroValue | ovrReman | ovrInvalid
  deriving DecidableEq, Repr

inductive PlanSource where
  | solved | override | ovrInvalid
  deriving DecidableEq, Repr

/-- Table 5-4. `reason` is absent for a PRODUCT plan: a plan is PRODUCT exactly when it has none. -/
structure Plan where
  reason : Option RemanReason
  a : Nat
  b : Nat
  grade : Nat
  lc : Nat
  wc : Nat
  value : Nat
  footage : Nat
  source : PlanSource
  overrideUsed : Option Override
  maskUsed : SawSet
  candidates : Nat
  deriving DecidableEq, Repr

/-- Table 7-3. -/
inductive CommitSource where
  | solved | override | ovrInvalid | sawLost | staleGrade | lateTrim | noSolution | late
  deriving DecidableEq, Repr

/-- Table 7-2. The saw set is {a, b} for PRODUCT and empty for REMAN. -/
structure CommittedPlan where
  product : Bool
  a : Nat
  b : Nat
  grade : Nat
  lc : Nat
  wc : Nat
  value : Nat
  footage : Nat
  source : CommitSource
  bin : Option (Fin 41)
  deriving DecidableEq, Repr

/-- A board record (Tables 1-8 and 12-6). `slot` is the published slot number, 0 until the record's first opening (R15).
The stamp is in `Path.stamps`, the credit in the solver's pool. -/
structure Board where
  state : BoardState
  slot : Fin 64
  lug : Half
  run : Half
  bank : BankId
  overflow : Bool
  ignored : Byte
  defects : List Defect
  sliceSets : Vector (List Nat) 8
  acc : Vector Accumulation 48
  cells : Vector Cell 48
  roughCells : Nat
  request : Option RequestClass
  override : Option Override
  plan : Option Plan
  stale : Option Plan
  committed : Option CommittedPlan
  deriving DecidableEq, Repr

/-- Channel state of one head (Table 2-1). Bit k of a slot's marks is set when its 64-byte block k was written. -/
structure Head where
  enabled : Bool
  frame : Bool
  chk : Bool
  gap : Bool
  expected : Option Byte
  marks : Vector (BitVec 4) 16
  counters : Vector Word 8
  deriving DecidableEq, Repr

/-- The solve in flight, with what was recorded at its begin (R86). -/
structure Solve where
  slot : Fin 64
  override : Option Override
  mask : SawSet
  deriving DecidableEq, Repr

/-- Table 5-1. `shared` lists the board slots that hold the shared credits, at most six (log entry 3). -/
structure Solver where
  shared : List (Fin 64)
  reservedFirst : Option (Fin 64)
  reservedResolve : Option (Fin 64)
  waiting : List (Fin 64)
  inFlight : Option Solve
  deriving DecidableEq, Repr

/-- An entry of the held-override table (R100). -/
structure HeldOverride where
  lug : Half
  override : Override
  deriving DecidableEq, Repr

/-- The record of a trim ring slot (Table 7-4); no source is NONE. -/
structure TrimSlot where
  state : SlotState
  lug : Half
  present : Bool
  saws : SawSet
  source : Option CommitSource
  grade : Nat
  lc : Nat
  deriving DecidableEq, Repr

/-- The record of a sort ring slot (Table 7-5). -/
structure SortSlot where
  state : SlotState
  lug : Half
  present : Bool
  bin : Nat
  grade : Nat
  lc : Nat
  wc : Nat
  overflow : Nat
  deriving DecidableEq, Repr

/-- A bin record (Table 7-1). -/
structure Bin where
  state : BinState
  count : Word
  capacity : Nat
  alternate : Nat
  lifetime : Word
  deriving DecidableEq, Repr

/-- The log in assembly (Table 3-2); its last index is `sections.length - 1`. -/
structure OpenLog where
  number : Half
  sections : List (Nat × Nat)
  interpolated : Nat
  deriving DecidableEq, Repr

/-- The content of a log record (R53). -/
structure LogRecord where
  closeSeq : Half
  number : Half
  run : Half
  sections : Nat
  interpolated : Nat
  truncated : Bool
  length : Nat
  smallEnd : Nat
  largeEnd : Nat
  volume : Nat
  deriving DecidableEq, Repr

structure LogUnit where
  openLog : Option OpenLog
  closeCount : Half
  ring : Vector LogRecord 16
  deriving DecidableEq, Repr

/-- Table 8-1, but for the boards in line, which the log unit holds. Entry G * 12 + Lc - 1 of `matrix` is [G][Lc]. -/
structure Tally where
  logs : Word
  litres : Word
  opened : Word
  sorted : Word
  lost : Word
  fallbacks : Word
  pieces : Vector Word 8
  footageBy : Vector Quad 8
  matrix : Vector Word 84
  footage : Quad
  value : Quad
  recovery : Half
  deriving DecidableEq, Repr

/-- A run slot (R57). -/
structure RunSlot where
  state : RunState
  number : Half
  inLine : Nat
  tally : Tally
  deriving DecidableEq, Repr

/-- The run slots, the run queue (oldest first), the next run number and the two pointers (R57). -/
structure RunUnit where
  slots : Vector RunSlot 8
  queue : List (Fin 8)
  nextNumber : Half
  infeed : Option (Fin 8)
  outfeed : Option (Fin 8)
  deriving DecidableEq, Repr

/-- Count state of a master-written ring (Table 9-4). -/
structure RingCounts where
  producer : Half
  consumer : Half
  pendingCount : Option Half
  deriving DecidableEq, Repr

/-- Bank states, reference counts and the pending switch (R165, R170). -/
structure Banks where
  stateA : BankState
  stateB : BankState
  refsA : Nat
  refsB : Nat
  pendingSwitch : Option (BankId × Half)
  deriving DecidableEq, Repr

/-- A route of the route table (R180). -/
inductive Route where
  | ring0 | ring1 | none
  deriving DecidableEq, Repr

/-- The head flag a HEAD_ERROR notice names. -/
inductive HeadFlag where
  | frame | chk | gap
  deriving DecidableEq, Repr

/-- The detail of a BANK_SWITCHED notice (R172 to R174). -/
inductive SwitchOutcome where
  | made (lug : Half) (old : BankState)
  | refused (code index : Nat)
  | dropped
  deriving DecidableEq, Repr

/-- Table 11-1: the kinds, each with its subject and detail. -/
inductive Notice where
  | headError (head : Nat) (flag : HeadFlag) (slot : Nat)
  | zone (lug : Half) (rule cell : Nat)
  | defectOverflow (lug : Half) (slot : Nat)
  | boardFallback (lug : Half) (slot : Nat) (source : CommitSource)
  | ovrSuperseded (lug : Half) (old new : Override)
  | ovrNoBoard (lug : Half) (removed : Override)
  | ovrInvalid (lug : Half) (station a b condition : Nat)
  | trimOverrun (old new : Half)
  | sortOverrun (old new : Half)
  | binFull (bin : Nat) (count : Word)
  | binOverflow (lug : Half) (bin : Nat)
  | logDone (number : Half) (slot : Nat)
  | runClosed (number : Half) (slot : Nat)
  | lineIdle (lc : Half)
  | bankSwitched (bank : BankId) (outcome : SwitchOutcome)
  | bankReleased (bank : BankId) (lug : Half)
  | ringError (ring : Nat) (written consumer : Half)
  | guard (area offset length : Nat)
  | lost (ring : Nat) (count : Half)
  deriving DecidableEq, Repr

/-- R177 and R182: each slot has the notice last written into it with its sequence, absent until one is stored; `attn`
is the level of the ring's attention output. -/
structure NoticeRing where
  slots : Vector (Option (Notice × Half)) 32
  next : Half
  held : Nat
  lost : Half
  attn : Bool
  deriving DecidableEq, Repr

/-- The published records (Table 12-1). -/
inductive Record where
  | status
  | head (h : Fin 9)
  | board (b : Fin 64)
  | trim (i : Fin 16)
  | sort (i : Fin 16)
  | run (r : Fin 8)
  | bin (n : Fin 41)
  | notice (ring : Fin 2) (slot : Fin 32)
  | stats
  | log (i : Fin 16)
  deriving DecidableEq, Repr

/-- What the initial publication writes at a time: a record of one block or more, or a block of several records (R162). -/
inductive InitUnit where
  | status
  | head (h : Fin 9)
  | board (b : Fin 64)
  | trimBlock (i : Fin 8)
  | sortBlock (i : Fin 8)
  | run (r : Fin 8)
  | binBlock (i : Fin 21)
  | noticeBlock (i : Fin 16)
  | stats
  | log (i : Fin 16)
  deriving DecidableEq, Repr

/-- The functional blocks that hand publications to the path unit (Figure 1-1). -/
inductive FunctionalBlock where
  | path | command | override | lugTracker | ingest | grader | solver | output | tally | log | notice
  deriving DecidableEq, Repr

/-- One injected write: its plain offset and its bytes, all enabled (R155). -/
structure InjectedWrite where
  offset : Nat
  bytes : List Byte
  deriving DecidableEq, Repr

/-- What a publication writes: a record, an entry's answer fields, or an initial write. -/
inductive PubTarget where
  | record (r : Record)
  | commandAnswer (i : Fin 64)
  | overrideAnswer (i : Fin 64)
  | initial (u : InitUnit)
  deriving DecidableEq, Repr

/-- A publication: what it writes, the block that made it, the command in which it was made, the stamp it carries, and
the writes that memory has not answered yet, in order (R155, R157). -/
structure Publication where
  target : PubTarget
  owner : FunctionalBlock
  event : Nat
  stamp : Half
  writes : List InjectedWrite
  deriving DecidableEq, Repr

/-- What a command puts on the two ports: a transaction forwarded to memory, an answer to a master with the data of a
read, or a write of the part's own that is made and answered within the command (log entry 5). -/
inductive PortEvent where
  | injected (x : InjectedWrite)
  | forwardWrite (addr : Nat) (bytes : List (Byte × Bool))
  | forwardRead (addr : Nat) (enables : List Bool)
  | masterAnswer (good : Bool) (data : List Byte)
  deriving DecidableEq, Repr

/-- A guarded write that waits for its place in the order of its block's traffic (R154): the notice it raises, and the
consuming reads of the block, accepted before it, that memory has not answered. -/
structure WaitingGuard where
  notice : Notice
  ahead : List BusRead
  deriving DecidableEq, Repr

/-- The path unit (chapter 9). `openReads` are the reads forwarded and not answered (R148), and `waitingGuards` the guarded
writes that wait for one of them (R154), in the order accepted. `event` and `ports` are the model's own (log entry 5). -/
structure Path where
  arenaBase : Nat
  stamps : Vector Half 236
  publications : List Publication
  initialRest : List InitUnit
  heldReads : List BusRead
  openReads : List BusRead
  waitingGuards : List WaitingGuard
  event : Nat
  ports : List PortEvent
  deriving DecidableEq, Repr

/-- The machine. -/
structure State where
  pending : List Instr
  resetLow : Bool
  lineState : LineState
  lc : Half
  config : Option LineConfig
  lugLine : Vector (Option LugEntry) 64
  boards : Vector Board 64
  heads : Vector Head 9
  solver : Solver
  held : List HeldOverride
  trimRing : Vector TrimSlot 16
  sortRing : Vector SortSlot 16
  bins : Vector Bin 41
  logUnit : LogUnit
  runs : RunUnit
  stats : Vector Word 24
  cmdRing : RingCounts
  ovrRing : RingCounts
  banks : Banks
  sawMask : SawSet
  routes : Vector Route 18
  notices : Vector NoticeRing 2
  path : Path
  shadow : List Host.Cell
  deriving DecidableEq, Repr

/-- No step of this block faults: the manual reports every error by a flag, an answer or a notice, and the part goes
on. The type has no constructor, so that no proof need consider one (safe). -/
inductive Fault where
  deriving DecidableEq, Repr

inductive Refusal where
  /-- Raised by an arm of exec whose command has no meaning yet. No arm does: every row has its meaning (safe). -/
  | notModelled (mnemonic : String)
  deriving DecidableEq, Repr

/-- R15: after the initial publication every field of every board record is zero and the state FREE. -/
def Board.blank : Board where
  state := .free
  slot := 0
  lug := 0
  run := 0
  bank := .a
  overflow := false
  ignored := 0
  defects := []
  sliceSets := Vector.replicate 8 []
  acc := Vector.replicate 48 ⟨0, 0, 0, 0⟩
  cells := Vector.replicate 48 ⟨0, 0, 0, false, false, false, 0⟩
  roughCells := 0
  request := none
  override := none
  plan := none
  stale := none
  committed := none

/-- Table 2-1, after reset. -/
def Head.atReset : Head where
  enabled := true
  frame := false
  chk := false
  gap := false
  expected := none
  marks := Vector.replicate 16 0
  counters := Vector.replicate 8 0

/-- Table 5-1, after reset. -/
def Solver.atReset : Solver := ⟨[], none, none, [], none⟩

/-- R137: every field of Table 8-1 is 0. -/
def Tally.zero : Tally where
  logs := 0
  litres := 0
  opened := 0
  sorted := 0
  lost := 0
  fallbacks := 0
  pieces := Vector.replicate 8 0
  footageBy := Vector.replicate 8 0
  matrix := Vector.replicate 84 0
  footage := 0
  value := 0
  recovery := 0

/-- R57, after reset. -/
def RunUnit.atReset : RunUnit where
  slots := Vector.replicate 8 ⟨.free, 0, 0, Tally.zero⟩
  queue := []
  nextNumber := 1
  infeed := none
  outfeed := none

/-- Table 11-1, last column: entry k is the route of kind k + 1. -/
def defaultRoutes : Vector Route 18 :=
  #v[.ring0, .none, .ring0, .ring0, .ring0, .ring0, .ring0, .ring1, .ring1, .ring1, .ring1, .none,
     .ring0, .ring0, .ring0, .ring0, .ring0, .ring0]

/-- R177, after reset. -/
def NoticeRing.atReset : NoticeRing := ⟨Vector.replicate 32 none, 0, 0, 0, false⟩

/-- R161: arena base 0 and no publication pending. -/
def Path.atReset : Path where
  arenaBase := 0
  stamps := Vector.replicate 236 0
  publications := []
  initialRest := []
  heldReads := []
  openReads := []
  waitingGuards := []
  event := 0
  ports := []

/-- The part while RESET_N is low: every block at its reset values (R1, R19, R46, R57, R79, R100, R118, R137, R144,
R161, R165, R177). RESET_RELEASE starts it (log entry 2). -/
def State.reset : State where
  pending := []
  resetLow := true
  lineState := .init
  lc := 0
  config := none
  lugLine := Vector.replicate 64 none
  boards := Vector.replicate 64 Board.blank
  heads := Vector.replicate 9 Head.atReset
  solver := Solver.atReset
  held := []
  trimRing := Vector.replicate 16 ⟨.empty, 0, false, 0, none, 0, 0⟩
  sortRing := Vector.replicate 16 ⟨.empty, 0, false, 0, 0, 0, 0, 0⟩
  bins := Vector.replicate 41 ⟨.opened, 0, 0, 0, 0⟩
  logUnit := ⟨none, 0, Vector.replicate 16 ⟨0, 0, 0, 0, 0, false, 0, 0, 0, 0⟩⟩
  runs := RunUnit.atReset
  stats := Vector.replicate 24 0
  cmdRing := ⟨0, 0, none⟩
  ovrRing := ⟨0, 0, none⟩
  banks := ⟨.active, .spare, 0, 0, none⟩
  sawMask := 0x1FFF
  routes := defaultRoutes
  notices := Vector.replicate 2 NoticeRing.atReset
  path := Path.atReset
  shadow := []

end Sys2Proof.Machine
end

