-- ==== Sys2Proof/Machine/Ops.lean ====
section
/-! DEFINITION. The named operations over memory and registers: saturation, byte order, the shadow memory, and the
updates of one board, entry, head, run or slot. -/

namespace Sys2Proof.Machine

/-- Add n to a counter that stops at its largest value (R28, R143, R144). -/
def satAdd {w : Nat} (x : BitVec w) (n : Nat) : BitVec w :=
  if x.toNat + n < 2 ^ w then BitVec.ofNat w (x.toNat + n) else BitVec.allOnes w

/-- The k low bytes of n, little-endian (chapter 12.1). -/
def leBytes : Nat → Nat → List Byte
  | 0, _ => []
  | k + 1, n => BitVec.ofNat 8 n :: leBytes k (n / 256)

/-- The number that bytes spell, little-endian (chapter 12.1). -/
def leValue : List Byte → Nat
  | [] => 0
  | x :: xs => x.toNat + 256 * leValue xs

/-- n bytes of 0: R183 writes every unnamed byte as 0. -/
def zeroBytes (n : Nat) : List Byte := List.replicate n 0

/-- The bytes of xs, then zeros up to length n. -/
def fillTo (n : Nat) (xs : List Byte) : List Byte := xs ++ zeroBytes (n - xs.length)

/-- A byte whose low nibble is lo and whose high nibble is hi (chapter 12.5). -/
def nibbles (lo hi : Nat) : Byte := BitVec.ofNat 8 (lo % 16 + 16 * (hi % 16))

def boolByte (b : Bool) : Byte := if b then 1 else 0

/-- What an unlisted byte of the shadows reads as: each shadow is all zero after reset (R161). -/
def shadowDefault : Byte := 0

/-- The byte at plain offset a of the shadows. -/
def readByte : List Host.Cell → Nat → Byte
  | [], _ => shadowDefault
  | (b, x) :: m, a => if a = b then x else readByte m a

/-- Store x at plain offset a, keeping the canonical form: offsets rising, no byte listed that equals the default. -/
def writeByte : List Host.Cell → Nat → Byte → List Host.Cell
  | [], a, x => if x = shadowDefault then [] else [(a, x)]
  | (b, y) :: m, a, x =>
    if a < b then if x = shadowDefault then (b, y) :: m else (a, x) :: (b, y) :: m
    else if a = b then if x = shadowDefault then m else (a, x) :: m
    else (b, y) :: writeByte m a x

/-- Every listed offset is at least lo, offsets rise strictly, and no listed byte is the default. -/
def Memory.wfFrom : Nat → List Host.Cell → Bool
  | _, [] => true
  | lo, (a, x) :: m => decide (lo ≤ a) && decide (x ≠ shadowDefault) && Memory.wfFrom (a + 1) m

/-- The one canonical form of the shadow memory. -/
def Memory.wf (m : List Host.Cell) : Bool := Memory.wfFrom 0 m

/-- Store each (offset, byte) pair in turn. -/
def writeBytes (m : List Host.Cell) (xs : List Host.Cell) : List Host.Cell :=
  xs.foldl (fun m x => writeByte m x.1 x.2) m

/-- Bytes xs at consecutive offsets from a. -/
def placedAt : Nat → List Byte → List Host.Cell
  | _, [] => []
  | a, x :: xs => (a, x) :: placedAt (a + 1) xs

/-- The n bytes from offset a. -/
def readBytes (m : List Host.Cell) (a : Nat) : Nat → List Byte
  | 0 => []
  | n + 1 => readByte m a :: readBytes m (a + 1) n

/-- The one-byte field at offset a. -/
def field8 (m : List Host.Cell) (a : Nat) : Nat := (readByte m a).toNat

/-- The 16-bit little-endian field at offset a. -/
def field16 (m : List Host.Cell) (a : Nat) : Nat := field8 m a + 256 * field8 m (a + 1)

/-- The 32-bit little-endian field at offset a. -/
def field32 (m : List Host.Cell) (a : Nat) : Nat := field16 m a + 65536 * field16 m (a + 2)

/-- The index of lug number n in the lug line: n mod 64 (R8). -/
def lugIndex (n : Half) : Fin 64 := Fin.ofNat 64 n.toNat

/-- The lug distance of lug n: (LC - n) mod 65536 (00_scope.md, Conventions). -/
def State.distance (s : State) (n : Half) : Nat := (s.lc - n).toNat

/-- The entry of lug n in the lug line, if the line holds one (R8). -/
def State.entry (s : State) (n : Half) : Option LugEntry :=
  match s.lugLine[lugIndex n] with
  | some e => if e.lug = n then some e else none
  | none => none

def State.setEntry (s : State) (n : Half) (e : Option LugEntry) : State :=
  { s with lugLine := s.lugLine.set (lugIndex n) e }

def State.setBoard (s : State) (i : Fin 64) (b : Board) : State :=
  { s with boards := s.boards.set i b }

def State.setHead (s : State) (h : Fin 9) (x : Head) : State :=
  { s with heads := s.heads.set h x }

def State.setRun (s : State) (r : Fin 8) (x : RunSlot) : State :=
  { s with runs := { s.runs with slots := s.runs.slots.set r x } }

def State.setTrim (s : State) (i : Fin 16) (x : TrimSlot) : State :=
  { s with trimRing := s.trimRing.set i x }

def State.setSort (s : State) (i : Fin 16) (x : SortSlot) : State :=
  { s with sortRing := s.sortRing.set i x }

def State.setBin (s : State) (n : Fin 41) (x : Bin) : State :=
  { s with bins := s.bins.set n x }

def State.setNotices (s : State) (n : Fin 2) (x : NoticeRing) : State :=
  { s with notices := s.notices.set n x }

def State.setSolver (s : State) (x : Solver) : State := { s with solver := x }

def State.setPath (s : State) (x : Path) : State := { s with path := x }

def State.setShadow (s : State) (m : List Host.Cell) : State := { s with shadow := m }

def State.setBanks (s : State) (x : Banks) : State := { s with banks := x }

def State.setLogUnit (s : State) (x : LogUnit) : State := { s with logUnit := x }

def State.setLineState (s : State) (x : LineState) : State := { s with lineState := x }

/-- Start a command: a new event number, and nothing on the ports yet (log entry 5). -/
def State.beginEvent (s : State) : State :=
  s.setPath { s.path with event := s.path.event + 1, ports := [] }

/-- Put an event on the ports, after those the command has already put there. -/
def State.emit (s : State) (e : PortEvent) : State :=
  s.setPath { s.path with ports := s.path.ports ++ [e] }

/-- The counters of the statistics record, in the order of Table 8-3. -/
inductive Stat where
  | lugs | framesTaken | droppedOld | droppedWrap | droppedExtra | droppedDuplicate | skipped
  | frameEvents | chkEvents | gapEvents | solvesCompleted | solvesRestarted | cancelledAtCommit | creditWaits
  | reservedUses | fallbacks | overridesAccepted | overridesLate | overridesRefused | trimOverruns | sortOverruns
  | binOverflows | guardDiscards | ringErrors
  deriving DecidableEq, Repr

/-- Place of a counter in the statistics record (chapter 12.5: i = 0 to 23 in the order of Table 8-3). -/
def Stat.index : Stat → Fin 24
  | .lugs => 0
  | .framesTaken => 1
  | .droppedOld => 2
  | .droppedWrap => 3
  | .droppedExtra => 4
  | .droppedDuplicate => 5
  | .skipped => 6
  | .frameEvents => 7
  | .chkEvents => 8
  | .gapEvents => 9
  | .solvesCompleted => 10
  | .solvesRestarted => 11
  | .cancelledAtCommit => 12
  | .creditWaits => 13
  | .reservedUses => 14
  | .fallbacks => 15
  | .overridesAccepted => 16
  | .overridesLate => 17
  | .overridesRefused => 18
  | .trimOverruns => 19
  | .sortOverruns => 20
  | .binOverflows => 21
  | .guardDiscards => 22
  | .ringErrors => 23

/-- Count one occurrence of a cause (R144). -/
def State.bump (s : State) (k : Stat) : State :=
  { s with stats := s.stats.set k.index (satAdd s.stats[k.index] 1) }

/-- Run f on the state for each x in turn. -/
def State.forEach {α : Type} (s : State) (xs : List α) (f : State → α → State) : State := xs.foldl f s

/-- The state and reference count of a bank (R165). -/
def Banks.state (x : Banks) : BankId → BankState
  | .a => x.stateA
  | .b => x.stateB

def Banks.refs (x : Banks) : BankId → Nat
  | .a => x.refsA
  | .b => x.refsB

def Banks.setState (x : Banks) (k : BankId) (v : BankState) : Banks :=
  match k with
  | .a => { x with stateA := v }
  | .b => { x with stateB := v }

def Banks.setRefs (x : Banks) (k : BankId) (v : Nat) : Banks :=
  match k with
  | .a => { x with refsA := v }
  | .b => { x with refsB := v }

/-- The bank that is ACTIVE: one is at every moment (Table 10-6). -/
def Banks.active (x : Banks) : BankId := if x.stateA = .active then .a else .b

def BankId.other : BankId → BankId
  | .a => .b
  | .b => .a

/-- A board record in use: any state but FREE (R13). -/
def Board.inUse (b : Board) : Bool := decide (b.state ≠ .free)

/-- k of head h: the size of its slice set (R35). -/
def Board.slicesOf (b : Board) (h : Fin 8) : Nat := b.sliceSets[h].length

def State.anyInUse (s : State) : Bool := (List.finRange 64).any fun i => s.boards[i].inUse

/-- The in-force W, C and S, each 0 while no configuration is in force (R1, R32). -/
def State.windowW (s : State) : Nat := (s.config.map LineConfig.w).getD 0
def State.commitC (s : State) : Nat := (s.config.map LineConfig.c).getD 0
def State.sortS (s : State) : Nat := (s.config.map LineConfig.s).getD 0

/-- N_h of a board head in the configuration in force (R16). -/
def State.slicesPerLug (s : State) (h : Fin 8) : Nat := (s.config.map fun c => c.slices[h]).getD 0

/-- Rank of a station in the configuration in force (R101). -/
def State.rank (s : State) (station : Fin 8) : Nat := (s.config.map fun c => c.ranks[station]).getD 0

/-- Whether the line counts lugs: RUN or DRAIN (R7). -/
def State.running (s : State) : Bool := decide (s.lineState = .run) || decide (s.lineState = .drain)

/-- The set of the two saws a and b. -/
def sawPair (a b : Nat) : SawSet := BitVec.ofNat 13 (2 ^ a ||| 2 ^ b)

/-- Insert a board slot where its lug belongs, oldest (greatest distance) first (R83). -/
def State.insertByAge (s : State) (i : Fin 64) : List (Fin 64) → List (Fin 64)
  | [] => [i]
  | j :: js =>
    if s.distance s.boards[j].lug < s.distance s.boards[i].lug then i :: j :: js
    else j :: s.insertByAge i js

/-- The board slots that satisfy p, oldest lug first (R41, R86, R89). -/
def State.boardsByAge (s : State) (p : Board → Bool) : List (Fin 64) :=
  ((List.finRange 64).filter fun i => p s.boards[i]).foldl (fun js i => s.insertByAge i js) []

end Sys2Proof.Machine
end

