-- ==== Sys2Proof/Machine/Operands.lean ====
section
/-! DEFINITION. The operand forms: every field the part reads from a shadow or from returned data, by the layouts of
chapter 12 (R183: only the bytes and bits a layout names). -/

namespace Sys2Proof.Machine

/-- A flag byte is read as 1 when it is not zero (R183). -/
def flag8 (m : List Host.Cell) (a : Nat) : Bool := decide (field8 m a ≠ 0)

/-- Offset of slot s of head h's ring (Table 12-1). -/
def frameBase (h : Fin 9) (slot : Fin 16) : Nat := 0x10000 + h.val * 0x1000 + slot.val * 0x100

/-- A cell entry of a board frame (chapter 12.3). -/
structure CellEntry where
  present : Bool
  t : Nat
  w : Nat
  n : Nat
  deriving DecidableEq, Repr

/-- A defect entry of a board frame (chapter 12.3). -/
structure DefectEntry where
  kind : Nat
  localCell : Nat
  size : Nat
  deriving DecidableEq, Repr

/-- A frame as the shadow of its slot holds it (Table 12-2): `number` is the lug or log number, `index` the slice or
section index, `flag` the present or end flag; `sum` is the checksum computed over bytes 0 to 247 (R23). -/
structure Frame where
  kind : Nat
  head : Nat
  seq : Byte
  index : Nat
  number : Half
  flag : Bool
  defectCount : Nat
  cells : List CellEntry
  defects : List DefectEntry
  dx : Nat
  dy : Nat
  marker : Nat
  checksum : Nat
  sum : Nat
  deriving DecidableEq, Repr

def readCellEntry (m : List Host.Cell) (a : Nat) : CellEntry where
  present := flag8 m a
  t := field16 m (a + 2)
  w := field16 m (a + 4)
  n := field16 m (a + 6)

def readDefectEntry (m : List Host.Cell) (a : Nat) : DefectEntry where
  kind := field8 m a
  localCell := field8 m (a + 1)
  size := field8 m (a + 2)

/-- The sum of the n 32-bit words from offset a, modulo 2^32 (R23). -/
def wordSum (m : List Host.Cell) (a : Nat) : Nat → Nat
  | 0 => 0
  | n + 1 => (field32 m a + wordSum m (a + 4) n) % 2 ^ 32

/-- The frame that the shadow holds at offset a (Table 12-2). -/
def readFrame (m : List Host.Cell) (a : Nat) : Frame where
  kind := field8 m a
  head := field8 m (a + 1)
  seq := readByte m (a + 2)
  index := field8 m (a + 3)
  number := BitVec.ofNat 16 (field16 m (a + 4))
  flag := flag8 m (a + 6)
  defectCount := field8 m (a + 7)
  cells := (List.range 6).map fun j => readCellEntry m (a + 0x08 + 8 * j)
  defects := (List.range 6).map fun j => readDefectEntry m (a + 0x38 + 4 * j)
  dx := field16 m (a + 0x08)
  dy := field16 m (a + 0x0A)
  marker := field32 m (a + 0xF8)
  checksum := field32 m (a + 0xFC)
  sum := wordSum m a 62

/-- The line configuration block (chapter 12.4). -/
def readConfig (m : List Host.Cell) : LineConfig where
  w := field8 m 0x3000
  c := field8 m 0x3001
  s := field8 m 0x3002
  slices := Vector.ofFn fun h => field8 m (0x3008 + h.val)
  ranks := Vector.ofFn fun k => field8 m (0x3010 + k.val)
  capacity := Vector.ofFn fun i => field16 m (0x3020 + 2 * i.val)
  alternate := Vector.ofFn fun i => field8 m (0x3070 + i.val)

/-- What a host writes into a command entry (Table 12-3). -/
structure CommandEntry where
  code : Byte
  arg1 : Half
  arg2 : Half
  deriving DecidableEq, Repr

/-- What the PLC bridge writes into an override entry (Table 12-3). -/
structure OverrideEntry where
  station : Byte
  kind : Byte
  lug : Half
  grade : Byte
  a : Byte
  b : Byte
  deriving DecidableEq, Repr

def commandOffset (i : Fin 64) : Nat := 0x1000 + 0x20 * i.val
def overrideOffset (i : Fin 64) : Nat := 0x2000 + 0x20 * i.val

def readCommandEntry (m : List Host.Cell) (i : Fin 64) : CommandEntry where
  code := readByte m (commandOffset i)
  arg1 := BitVec.ofNat 16 (field16 m (commandOffset i + 2))
  arg2 := BitVec.ofNat 16 (field16 m (commandOffset i + 4))

def readOverrideEntry (m : List Host.Cell) (i : Fin 64) : OverrideEntry where
  station := readByte m (overrideOffset i)
  kind := readByte m (overrideOffset i + 1)
  lug := BitVec.ofNat 16 (field16 m (overrideOffset i + 2))
  grade := readByte m (overrideOffset i + 4)
  a := readByte m (overrideOffset i + 5)
  b := readByte m (overrideOffset i + 6)

/-- The first 16 bytes of a command entry, unnamed bytes 0 (Table 12-3). -/
def CommandEntry.bytes (e : CommandEntry) : List Byte :=
  fillTo 16 ([e.code, 0] ++ leBytes 2 e.arg1.toNat ++ leBytes 2 e.arg2.toNat)

def OverrideEntry.bytes (e : OverrideEntry) : List Byte :=
  fillTo 16 ([e.station, e.kind] ++ leBytes 2 e.lug.toNat ++ [e.grade, e.a, e.b])

/-- The twelve commands and the entry whose code names none (Table 10-2, R166). -/
inductive Command where
  | startLine
  | drainLine
  | stopLine
  | bankSwitch (bank lug : Half)
  | sawMask (saws : Half)
  | headEnable (heads : Half)
  | runNew
  | runAdvance
  | binHold (bin : Half)
  | binEmpty (bin : Half)
  | noticeRoute (kind route : Half)
  | statsClear
  | unknown
  deriving DecidableEq, Repr

/-- The command an entry asks for: codes 1 to 12 in the order of Table 10-2. -/
def CommandEntry.command (e : CommandEntry) : Command :=
  match e.code.toNat with
  | 1 => .startLine
  | 2 => .drainLine
  | 3 => .stopLine
  | 4 => .bankSwitch e.arg1 e.arg2
  | 5 => .sawMask e.arg1
  | 6 => .headEnable e.arg1
  | 7 => .runNew
  | 8 => .runAdvance
  | 9 => .binHold e.arg1
  | 10 => .binEmpty e.arg1
  | 11 => .noticeRoute e.arg1 e.arg2
  | 12 => .statsClear
  | _ => .unknown

/-- An override entry that passes the field check of R103: its station, and what it asks for (none for CANCEL).
A field out of range gives none (BAD_FIELD). -/
def OverrideEntry.request (e : OverrideEntry) : Option (Fin 8 × Option OverrideAction) :=
  if h : e.station.toNat < 8 then
    let station : Fin 8 := ⟨e.station.toNat, h⟩
    match e.kind.toNat with
    | 1 => if hg : e.grade.toNat < 7 then some (station, some (.grade ⟨e.grade.toNat, hg⟩)) else none
    | 2 =>
      if hab : e.a.toNat < e.b.toNat ∧ e.b.toNat < 13 then
        some (station, some (.trim ⟨e.a.toNat, by omega⟩ ⟨e.b.toNat, hab.2⟩))
      else none
    | 3 => some (station, some .reman)
    | 4 => some (station, none)
    | _ => none
  else none

/-- Offset of a table bank (Table 9-1). -/
def bankBase : BankId → Nat
  | .a => 0x4000
  | .b => 0x5000

/-- Boundary i of quantity q of a bank; q is 1 T, 2 W, 3 N (Table 12-4). -/
def bankBoundary (m : List Host.Cell) (k : BankId) (q i : Nat) : Nat :=
  field16 m (bankBase k + 8 * (q - 1) + 2 * i)

/-- A limit rule (Table 4-1, Table 12-4). -/
structure LimitRule where
  quantity : Nat
  a : Nat
  b : Nat
  condition : Nat
  grade : Nat
  notice : Bool
  deriving DecidableEq, Repr

def bankRule (m : List Host.Cell) (k : BankId) (rule : Nat) : LimitRule :=
  let at0 := field8 m (bankBase k + 0x20 + 4 * rule)
  let at1 := field8 m (bankBase k + 0x20 + 4 * rule + 1)
  { quantity := at0 % 4
    a := at0 / 4 % 4
    b := at0 / 16 % 4
    condition := at1 % 8
    grade := field8 m (bankBase k + 0x20 + 4 * rule + 2)
    notice := decide (at0 / 64 % 2 = 1) }

def bankMaxSize (m : List Host.Cell) (k : BankId) (kind g : Nat) : Nat := field8 m (bankBase k + 0x60 + 7 * kind + g)
def bankMaxCount (m : List Host.Cell) (k : BankId) (g : Nat) : Nat := field8 m (bankBase k + 0x98 + g) % 64
def bankMinLen (m : List Host.Cell) (k : BankId) : Nat := field8 m (bankBase k + 0xA0)
def bankUnknownGrade (m : List Host.Cell) (k : BankId) : Nat := field8 m (bankBase k + 0xA1)
def bankOverflowGrade (m : List Host.Cell) (k : BankId) : Nat := field8 m (bankBase k + 0xA2)
def bankThickness (m : List Host.Cell) (k : BankId) : Nat := field8 m (bankBase k + 0xA3)
def bankWidth (m : List Host.Cell) (k : BankId) (wc : Nat) : Nat := field8 m (bankBase k + 0xA4 + wc)
def bankWidthBoundary (m : List Host.Cell) (k : BankId) (i : Nat) : Nat := field16 m (bankBase k + 0xB0 + 2 * i)

/-- Number of the value table and sort matrix entry of grade g, length code lc and width class wc (Table 12-4). -/
def entryNumber (g lc wc : Nat) : Nat := g * 72 + (lc - 1) * 6 + wc

def bankValue (m : List Host.Cell) (k : BankId) (g lc wc : Nat) : Nat :=
  field16 m (bankBase k + 0x100 + 2 * entryNumber g lc wc)
def bankSortEntry (m : List Host.Cell) (k : BankId) (e : Nat) : Nat := field8 m (bankBase k + 0x500 + e)

/-- The first index, in ascending order, for which a test fails. -/
def firstFailing (indices : List Nat) (passes : Nat → Bool) : Option Nat := indices.find? fun i => !passes i

/-- The first failing item of an item list: its code and index (R2, R169). -/
def firstFailingItem : List (Nat × List Nat × (Nat → Bool)) → Option (Nat × Nat)
  | [] => none
  | (code, indices, passes) :: rest =>
    match firstFailing indices passes with
    | some i => some (code, i)
    | none => firstFailingItem rest

/-- Table 1-5, on the shadow of the line configuration block: the first failing item, or none. -/
def configCheck (m : List Host.Cell) : Option (Nat × Nat) :=
  let w := field8 m 0x3000
  let c := field8 m 0x3001
  let s := field8 m 0x3002
  let bins := (List.range 40).map (· + 1)
  firstFailingItem
    [ (1, [0], fun _ => decide (1 ≤ w) && decide (w ≤ 3)),
      (2, [0], fun _ => decide (w + 1 ≤ c) && decide (c ≤ 32)),
      (3, [0], fun _ => decide (c + 2 ≤ s) && decide (s ≤ 63)),
      (4, List.range 8, fun h => decide (1 ≤ field8 m (0x3008 + h)) && decide (field8 m (0x3008 + h) ≤ 4)),
      (5, List.range 8, fun k => decide (field8 m (0x3010 + k) ≤ 7)),
      (6, bins, fun n => decide (1 ≤ field16 m (0x3020 + 2 * (n - 1))) && decide (field16 m (0x3020 + 2 * (n - 1)) ≤ 4095)),
      (7, bins, fun n => decide (field8 m (0x3070 + (n - 1)) ≤ 40) && decide (field8 m (0x3070 + (n - 1)) ≠ n)) ]

/-- Table 10-5, on the shadow of a bank: the first failing item, or none (R169). -/
def bankCheck (m : List Host.Cell) (k : BankId) : Option (Nat × Nat) :=
  firstFailingItem
    [ (1, [0], fun _ => decide (1 ≤ bankMinLen m k) && decide (bankMinLen m k ≤ 12)),
      (2, [0], fun _ => decide (bankUnknownGrade m k ≤ 7)),
      (3, [0], fun _ => decide (bankOverflowGrade m k ≤ 7)),
      (4, List.range 16, fun r => decide ((bankRule m k r).grade ≤ 7)),
      (5, [0], fun _ => decide (1 ≤ bankThickness m k) && decide (bankThickness m k ≤ 32)),
      (6, List.range 6, fun wc => decide (1 ≤ bankWidth m k wc) && decide (bankWidth m k wc ≤ 64)),
      (7, [1, 2, 3, 4], fun i => decide (bankWidthBoundary m k (i - 1) ≤ bankWidthBoundary m k i)),
      (8, List.range 504, fun e => decide (bankSortEntry m k e ≤ 40)) ]

/-- The 8 header bytes a read returned, as the owners read them: byte i of the header word. -/
def headerByte (header : List Byte) (i : Nat) : Byte := header.getD i 0

def headerHalf (header : List Byte) (i : Nat) : Half :=
  BitVec.ofNat 16 ((headerByte header i).toNat + 256 * (headerByte header (i + 1)).toNat)

end Sys2Proof.Machine
end

