-- ==== Sys2Proof/Machine/Flags.lean ====
section
/-! DEFINITION. The flags, levels and conditions computed from the state: head flags and blocking, the credit a board
holds, the attention outputs, the areas and their guards. -/

namespace Sys2Proof.Machine

/-- A head is blocked while its FRAME flag or its CHK flag is set (R26). -/
def Head.blocked (h : Head) : Bool := h.frame || h.chk

/-- The flag byte of a head status record: bit 0 FRAME, bit 1 CHK, bit 2 GAP (chapter 12.5), and its other bits 0 (the
model's choice, log entry 22). -/
def Head.flagByte (h : Head) : Byte :=
  (if h.frame then 1 else 0) ||| (if h.chk then 2 else 0) ||| (if h.gap then 4 else 0)

def Head.flag (h : Head) : HeadFlag → Bool
  | .frame => h.frame
  | .chk => h.chk
  | .gap => h.gap

def Head.setFlag (h : Head) : HeadFlag → Head
  | .frame => { h with frame := true }
  | .chk => { h with chk := true }
  | .gap => { h with gap := true }

/-- R27: clear each flag that the returned flag byte showed set; a blocked head that loses both FRAME and CHK has its
expected sequence unset. -/
def Head.clearShown (h : Head) (shown : Byte) : Head :=
  let cleared : Head :=
    { h with
      frame := h.frame && !shown.getLsbD 0
      chk := h.chk && !shown.getLsbD 1
      gap := h.gap && !shown.getLsbD 2 }
  if h.blocked && !cleared.blocked then { cleared with expected := none } else cleared

/-- The counters of a head status record, in the order of Table 2-3. -/
inductive HeadCounter where
  | framesTaken | droppedOld | droppedWrap | droppedExtra | skipped | frameCount | chkCount | gapCount
  deriving DecidableEq, Repr

def HeadCounter.index : HeadCounter → Fin 8
  | .framesTaken => 0
  | .droppedOld => 1
  | .droppedWrap => 2
  | .droppedExtra => 3
  | .skipped => 4
  | .frameCount => 5
  | .chkCount => 6
  | .gapCount => 7

def Head.bump (h : Head) (k : HeadCounter) : Head :=
  { h with counters := h.counters.set k.index (satAdd h.counters[k.index] 1) }

/-- How an arrival that passed its checks is settled. -/
inductive FrameOutcome where
  | taken | droppedOld | droppedWrap | droppedExtra | droppedDuplicate | skipped
  deriving DecidableEq, Repr

/-- Table 2-3. -/
def FrameOutcome.counter : FrameOutcome → HeadCounter
  | .taken => .framesTaken
  | .droppedOld => .droppedOld
  | .droppedWrap => .droppedWrap
  | .droppedExtra => .droppedExtra
  | .droppedDuplicate => .droppedExtra
  | .skipped => .skipped

/-- Table 8-3. -/
def FrameOutcome.stat : FrameOutcome → Stat
  | .taken => .framesTaken
  | .droppedOld => .droppedOld
  | .droppedWrap => .droppedWrap
  | .droppedExtra => .droppedExtra
  | .droppedDuplicate => .droppedDuplicate
  | .skipped => .skipped

/-- R31 and R145: count the outcome of a frame at once, in its head's record and in the statistics. -/
def State.countFrame (s : State) (h : Fin 9) (o : FrameOutcome) : State :=
  (s.setHead h (s.heads[h].bump o.counter)).bump o.stat

/-- The credit a board slot holds in the pool, if any (Table 5-2). -/
def Solver.creditOf (x : Solver) (i : Fin 64) : Option Credit :=
  if i ∈ x.shared then some .shared
  else if x.reservedFirst = some i then some .reservedFirst
  else if x.reservedResolve = some i then some .reservedResolve
  else none

/-- The slot of the k-th held notice of a ring, oldest first (R177). -/
def NoticeRing.heldSlot (x : NoticeRing) (k : Nat) : Fin 32 :=
  Fin.ofNat 32 (x.next.toNat + 65536 - x.held + k)

/-- The sequence of the oldest held notice: next sequence less held count (R177). -/
def NoticeRing.oldestSeq (x : NoticeRing) : Half := x.next - BitVec.ofNat 16 x.held

/-- Whether a slot's notice is among those the ring holds (R177). -/
def NoticeRing.holds (x : NoticeRing) (slot : Fin 32) : Bool :=
  (List.range x.held).any fun k => decide (x.heldSlot k = slot)

/-- R182: the level of ATTNn. It rises at the answer to the slot write of a notice that ring n holds, and falls at the
removal that empties the ring (log entry 4). -/
def attn (s : State) (n : Fin 2) : Bool := s.notices[n].attn

/-- A plan's saw set: {a, b} for PRODUCT, empty for REMAN (Table 5-4). -/
def Plan.saws (p : Plan) : SawSet := if p.reason = none then sawPair p.a p.b else 0

/-- A committed plan's saw set (Table 7-2). -/
def CommittedPlan.saws (p : CommittedPlan) : SawSet := if p.product then sawPair p.a p.b else 0

/-- Whether every saw of a set is in a mask. -/
def sawsWithin (x mask : SawSet) : Bool := decide (x &&& ~~~mask = 0)

/-- Table 9-1, in its order. -/
inductive Area where
  | statusBlock | commandRing | commandCount | overrideRing | overrideCount | configBlock | bankA | bankB
  | frameRings | headRecords | boardTable | trimRing | sortRing | runRecords | binRecords | noticeRings
  | statistics | logRing
  deriving DecidableEq, Repr

/-- Code of an area, from 1 for the status block (R152). -/
def Area.code : Area → Nat
  | .statusBlock => 1
  | .commandRing => 2
  | .commandCount => 3
  | .overrideRing => 4
  | .overrideCount => 5
  | .configBlock => 6
  | .bankA => 7
  | .bankB => 8
  | .frameRings => 9
  | .headRecords => 10
  | .boardTable => 11
  | .trimRing => 12
  | .sortRing => 13
  | .runRecords => 14
  | .binRecords => 15
  | .noticeRings => 16
  | .statistics => 17
  | .logRing => 18

/-- The area of a plain offset, or none for plain memory (Table 9-1). -/
def areaOf (a : Nat) : Option Area :=
  if a ≤ 0x000FFF then some .statusBlock
  else if 0x001000 ≤ a ∧ a ≤ 0x0017FF then some .commandRing
  else if 0x001800 ≤ a ∧ a ≤ 0x001803 then some .commandCount
  else if 0x002000 ≤ a ∧ a ≤ 0x0027FF then some .overrideRing
  else if 0x002800 ≤ a ∧ a ≤ 0x002803 then some .overrideCount
  else if 0x003000 ≤ a ∧ a ≤ 0x003FFF then some .configBlock
  else if 0x004000 ≤ a ∧ a ≤ 0x004FFF then some .bankA
  else if 0x005000 ≤ a ∧ a ≤ 0x005FFF then some .bankB
  else if 0x010000 ≤ a ∧ a ≤ 0x018FFF then some .frameRings
  else if 0x020000 ≤ a ∧ a ≤ 0x02023F then some .headRecords
  else if 0x030000 ≤ a ∧ a ≤ 0x037FFF then some .boardTable
  else if 0x040000 ≤ a ∧ a ≤ 0x0401FF then some .trimRing
  else if 0x041000 ≤ a ∧ a ≤ 0x0411FF then some .sortRing
  else if 0x050000 ≤ a ∧ a ≤ 0x053FFF then some .runRecords
  else if 0x060000 ≤ a ∧ a ≤ 0x06051F then some .binRecords
  else if 0x070000 ≤ a ∧ a ≤ 0x0703FF then some .noticeRings
  else if 0x080000 ≤ a ∧ a ≤ 0x0800FF then some .statistics
  else if 0x090000 ≤ a ∧ a ≤ 0x090FFF then some .logRing
  else none

/-- Whether an area is guarded in a state (Table 9-1, "Guarded when"). -/
def State.guards (s : State) : Area → Bool
  | .commandRing => false
  | .commandCount => false
  | .overrideRing => false
  | .overrideCount => false
  | .frameRings => false
  | .configBlock => s.running
  | .bankA => decide (s.banks.stateA ≠ .spare)
  | .bankB => decide (s.banks.stateB ≠ .spare)
  | .statusBlock => true
  | .headRecords => true
  | .boardTable => true
  | .trimRing => true
  | .sortRing => true
  | .runRecords => true
  | .binRecords => true
  | .noticeRings => true
  | .statistics => true
  | .logRing => true

/-- The area a plain offset lies in, when it is guarded in the state. -/
def State.guardedArea (s : State) (a : Nat) : Option Area :=
  match areaOf a with
  | some x => if s.guards x then some x else none
  | none => none

/-- Whether a plain offset lies in an area that captures writes in the state (R151). -/
def State.watches (s : State) (a : Nat) : Bool :=
  match areaOf a with
  | some x => !s.guards x
  | none => false

/-- The size of each half of the arena: 4 MiB (R149). -/
def halfArena : Nat := 0x400000

/-- The plain offset of an address, folding the alias, and whether it was in the alias (R149); none outside the arena. -/
def State.offsetOf (s : State) (addr : Nat) : Option (Nat × Bool) :=
  if s.path.arenaBase ≤ addr ∧ addr < s.path.arenaBase + 2 * halfArena then
    let o := addr - s.path.arenaBase
    if o < halfArena then some (o, false) else some (o - halfArena, true)
  else none

end Sys2Proof.Machine
end

