-- ==== Sys2Proof/Machine/Images.lean ====
section
/-! DEFINITION. The published records: where each lies and the bytes it shows, by chapter 12. -/

namespace Sys2Proof.Machine

def LineState.code : LineState → Byte
  | .init => 0
  | .idle => 1
  | .run => 2
  | .drain => 3

def BoardState.code : BoardState → Byte
  | .free => 0
  | .measuring => 1
  | .awaiting => 2
  | .queued => 3
  | .solving => 4
  | .solved => 5
  | .committed => 6

def RunState.code : RunState → Byte
  | .free => 0
  | .opened => 1
  | .finishing => 2
  | .closed => 3

def BankState.code : BankState → Byte
  | .active => 1
  | .held => 2
  | .spare => 3

def BinState.code : BinState → Byte
  | .opened => 0
  | .full => 1
  | .hold => 2

def SlotState.code : SlotState → Byte
  | .empty => 0
  | .written => 1
  | .consumed => 2

def CommitSource.code : CommitSource → Byte
  | .solved => 1
  | .override => 2
  | .ovrInvalid => 3
  | .sawLost => 4
  | .staleGrade => 5
  | .lateTrim => 6
  | .noSolution => 7
  | .late => 8

def PlanSource.code : PlanSource → Byte
  | .solved => 1
  | .override => 2
  | .ovrInvalid => 3

def RemanReason.code : RemanReason → Nat
  | .noCandidate => 1
  | .zeroValue => 2
  | .ovrReman => 3
  | .ovrInvalid => 4

def BankId.code : BankId → Byte
  | .a => 0
  | .b => 1

def HeadFlag.code : HeadFlag → Byte
  | .frame => 0
  | .chk => 1
  | .gap => 2

/-- Kind codes of Table 12-3: 1 GRADE, 2 TRIM, 3 REMAN. -/
def OverrideAction.code : OverrideAction → Nat
  | .grade _ => 1
  | .trim _ _ => 2
  | .reman => 3

/-- The argument byte of an override (chapter 12.5); REMAN has no argument and shows 0 (log entry 12). -/
def OverrideAction.argument : OverrideAction → Byte
  | .grade g => BitVec.ofNat 8 g.val
  | .trim a b => nibbles a.val b.val
  | .reman => 0

/-- The attached override of a board record: kind, station, argument; all 0 while absent (Table 12-6). -/
def overrideBytes : Option Override → List Byte
  | none => zeroBytes 3
  | some o => [BitVec.ofNat 8 o.action.code, BitVec.ofNat 8 o.station.val, o.action.argument]

/-- The 16 bytes of a plan (chapter 12.5); all 0 while absent. -/
def planBytes : Option Plan → List Byte
  | none => zeroBytes 16
  | some p =>
    [ nibbles (if p.reason = none then 1 else 2) ((p.reason.map RemanReason.code).getD 0),
      nibbles p.a p.b, BitVec.ofNat 8 p.grade, BitVec.ofNat 8 p.lc, BitVec.ofNat 8 p.wc, p.source.code ]
    ++ leBytes 2 p.value ++ leBytes 3 p.footage ++ [BitVec.ofNat 8 p.candidates]
    ++ (match p.overrideUsed with
        | none => [0, 0]
        | some o => [nibbles o.action.code o.station.val, o.action.argument])
    ++ leBytes 2 p.maskUsed.toNat

/-- The 12 bytes of a committed plan; the bin is FFH while absent; all 0 while there is no committed plan. -/
def committedBytes : Option CommittedPlan → List Byte
  | none => zeroBytes 12
  | some p =>
    [ if p.product then 1 else 2, nibbles p.a p.b, BitVec.ofNat 8 p.grade, BitVec.ofNat 8 p.lc, BitVec.ofNat 8 p.wc,
      p.source.code ]
    ++ leBytes 2 p.value ++ leBytes 3 p.footage
    ++ [match p.bin with
        | none => 0xFF
        | some n => BitVec.ofNat 8 n.val]

/-- Bit k is set when the defect list holds an entry of this cell and kind k (chapter 12.5). -/
def kindMask (defects : List Defect) (cell : Nat) : Byte :=
  defects.foldl (fun x d => if d.cell = cell then x ||| BitVec.ofNat 8 (2 ^ d.kind) else x) 0

/-- A cell entry of a board record: T, W, N, the status byte and the kind mask. Bits 3 and 7 of the status byte are 0
(log entry 22). -/
def cellBytes (defects : List Defect) (c : Nat) (x : Cell) : List Byte :=
  leBytes 2 x.t ++ leBytes 2 x.w ++ leBytes 2 x.n
  ++ [ boolByte x.present ||| (if x.known then 2 else 0) ||| (if x.reduced then 4 else 0)
        ||| BitVec.ofNat 8 (16 * (x.grade % 8)),
       kindMask defects c ]

/-- The slices of heads 2i and 2i + 1 in one byte (Table 12-6). -/
def sliceByte (b : Board) (i : Fin 4) : Byte :=
  nibbles (b.slicesOf ⟨2 * i.val, by omega⟩) (b.slicesOf ⟨2 * i.val + 1, by omega⟩)

def requestNibble : Option RequestClass → Nat
  | none => 0
  | some .first => 1
  | some .resolve => 2

def creditNibble : Option Credit → Nat
  | none => 0
  | some .shared => 1
  | some .reservedFirst => 2
  | some .reservedResolve => 3

/-- Table 12-6. Bits 2 to 7 of the byte 08H, which the table does not name, are 0 (the model's choice, log entry 22). -/
def boardImage (stamp : Half) (credit : Option Credit) (b : Board) : List Byte :=
  leBytes 2 stamp.toNat ++ [b.state.code, BitVec.ofNat 8 b.slot.val] ++ leBytes 2 b.lug.toNat ++ leBytes 2 b.run.toNat
  ++ [ b.bank.code ||| (if b.overflow then 2 else 0), b.ignored, BitVec.ofNat 8 b.defects.length,
       BitVec.ofNat 8 b.roughCells, sliceByte b 0, sliceByte b 1, sliceByte b 2, sliceByte b 3,
       nibbles (requestNibble b.request) (creditNibble credit) ]
  ++ overrideBytes b.override ++ planBytes b.plan ++ planBytes b.stale ++ committedBytes b.committed
  ++ ((List.finRange 48).map fun c => cellBytes b.defects c.val b.cells[c]).flatten
  ++ fillTo 64 (b.defects.map fun d => BitVec.ofNat 8 d.size)

/-- Table 12-5. -/
def statusImage (stamp : Half) (s : State) : List Byte :=
  let runNumber := fun (p : Option (Fin 8)) => (p.map fun r => s.runs.slots[r].number.toNat).getD 0
  let ring := fun (n : Fin 2) =>
    leBytes 2 s.notices[n].next.toNat ++ [BitVec.ofNat 8 s.notices[n].held, 0]
      ++ leBytes 2 s.notices[n].lost.toNat ++ zeroBytes 2
  let head :=
    leBytes 2 stamp.toNat ++ [s.lineState.code, 0] ++ leBytes 2 s.lc.toNat ++ zeroBytes 2
    ++ [BitVec.ofNat 8 s.windowW, BitVec.ofNat 8 s.commitC, BitVec.ofNat 8 s.sortS, 0]
    ++ leBytes 2 s.cmdRing.consumer.toNat ++ leBytes 2 s.ovrRing.consumer.toNat ++ leBytes 2 s.sawMask.toNat
    ++ leBytes 2 (runNumber s.runs.infeed) ++ leBytes 2 (runNumber s.runs.outfeed)
  let pendingBytes :=
    match s.banks.pendingSwitch with
    | none => [0xFF, 0] ++ leBytes 2 (Config.noPendingLug s.path.event stamp.toNat).toNat
    | some (k, n) => [k.code, 0] ++ leBytes 2 n.toNat
  fillTo 4096
    (fillTo 0x40 head
      ++ [ s.banks.stateA.code, BitVec.ofNat 8 s.banks.refsA, s.banks.stateB.code, BitVec.ofNat 8 s.banks.refsB ]
      ++ pendingBytes ++ ring 0 ++ ring 1)

/-- The head status record (chapter 12.5); `unset` is shown at 08H while the expected sequence is unset. -/
def headImage (stamp : Half) (unset : Byte) (h : Fin 9) (x : Head) : List Byte :=
  fillTo 64
    ([ BitVec.ofNat 8 h.val, boolByte x.enabled, x.flagByte, boolByte x.blocked, 0, 0 ] ++ leBytes 2 stamp.toNat
      ++ [ x.expected.getD unset, boolByte x.expected.isSome, 0, 0 ]
      ++ (x.counters.toList.map fun k => leBytes 4 k.toNat).flatten)

/-- The header word that trim and sort records share. -/
def slotHeader (stamp : Half) (state : SlotState) (present : Bool) (lug : Half) : List Byte :=
  [state.code, boolByte present] ++ leBytes 2 lug.toNat ++ leBytes 2 stamp.toNat ++ zeroBytes 2

def trimImage (stamp : Half) (x : TrimSlot) : List Byte :=
  fillTo 32
    (slotHeader stamp x.state x.present x.lug ++ leBytes 2 x.saws.toNat
      ++ [(x.source.map CommitSource.code).getD 0, BitVec.ofNat 8 x.grade, BitVec.ofNat 8 x.lc])

def sortImage (stamp : Half) (x : SortSlot) : List Byte :=
  fillTo 32
    (slotHeader stamp x.state x.present x.lug
      ++ [ BitVec.ofNat 8 x.bin, BitVec.ofNat 8 x.grade, BitVec.ofNat 8 x.lc, BitVec.ofNat 8 x.wc,
           BitVec.ofNat 8 x.overflow ])

def binImage (stamp : Half) (x : Bin) : List Byte :=
  fillTo 32
    ([x.state.code, BitVec.ofNat 8 x.alternate] ++ leBytes 2 x.capacity ++ leBytes 2 stamp.toNat ++ zeroBytes 2
      ++ leBytes 4 x.count.toNat ++ leBytes 4 x.lifetime.toNat)

/-- Table 12-7, left. The slot byte 03H shows the record's own slot at all times (log entry 22). -/
def runImage (stamp : Half) (r : Fin 8) (x : RunSlot) : List Byte :=
  let t := x.tally
  let words := fun (xs : List Word) => (xs.map fun k => leBytes 4 k.toNat).flatten
  let quads := fun (xs : List Quad) => (xs.map fun k => leBytes 8 k.toNat).flatten
  fillTo 2048
    (leBytes 2 x.number.toNat ++ [x.state.code, BitVec.ofNat 8 r.val] ++ leBytes 2 stamp.toNat ++ zeroBytes 2
      ++ words [t.logs, t.litres, t.opened, t.sorted, t.lost] ++ leBytes 4 x.inLine ++ words [t.fallbacks]
      ++ leBytes 2 t.recovery.toNat ++ zeroBytes 2
      ++ words t.pieces.toList ++ quads t.footageBy.toList ++ quads [t.footage, t.value] ++ zeroBytes 8
      ++ words t.matrix.toList)

/-- Table 12-7, right. Bits 1 to 7 of the byte 0AH, which the table does not name, are 0 (the model's choice, log entry
22). -/
def logImage (stamp : Half) (x : LogRecord) : List Byte :=
  fillTo 256
    (leBytes 2 x.closeSeq.toNat ++ leBytes 2 stamp.toNat ++ leBytes 2 x.number.toNat ++ leBytes 2 x.run.toNat
      ++ [BitVec.ofNat 8 x.sections, BitVec.ofNat 8 x.interpolated, boolByte x.truncated, 0]
      ++ leBytes 2 x.length ++ leBytes 2 x.smallEnd ++ leBytes 2 x.largeEnd ++ zeroBytes 2 ++ leBytes 4 x.volume)

/-- Codes of Table 11-1. -/
def Notice.code : Notice → Nat
  | .headError _ _ _ => 1
  | .zone _ _ _ => 2
  | .defectOverflow _ _ => 3
  | .boardFallback _ _ _ => 4
  | .ovrSuperseded _ _ _ => 5
  | .ovrNoBoard _ _ => 6
  | .ovrInvalid _ _ _ _ _ => 7
  | .trimOverrun _ _ => 8
  | .sortOverrun _ _ => 9
  | .binFull _ _ => 10
  | .binOverflow _ _ => 11
  | .logDone _ _ => 12
  | .runClosed _ _ => 13
  | .lineIdle _ => 14
  | .bankSwitched _ _ => 15
  | .bankReleased _ _ => 16
  | .ringError _ _ _ => 17
  | .guard _ _ _ => 18
  | .lost _ _ => 19

/-- Subjects of Table 11-1. -/
def Notice.subject : Notice → Half
  | .headError head _ _ => BitVec.ofNat 16 head
  | .zone lug _ _ => lug
  | .defectOverflow lug _ => lug
  | .boardFallback lug _ _ => lug
  | .ovrSuperseded lug _ _ => lug
  | .ovrNoBoard lug _ => lug
  | .ovrInvalid lug _ _ _ _ => lug
  | .trimOverrun old _ => old
  | .sortOverrun old _ => old
  | .binFull bin _ => BitVec.ofNat 16 bin
  | .binOverflow lug _ => lug
  | .logDone number _ => number
  | .runClosed number _ => number
  | .lineIdle lc => lc
  | .bankSwitched k _ => BitVec.ofNat 16 k.code.toNat
  | .bankReleased k _ => BitVec.ofNat 16 k.code.toNat
  | .ringError ring _ _ => BitVec.ofNat 16 ring
  | .guard area _ _ => BitVec.ofNat 16 area
  | .lost ring _ => BitVec.ofNat 16 ring

/-- Switch outcomes: 1 MADE, 3 REFUSED, 4 DROPPED (chapter 12.4), with what each holds beside it (chapter 12.5). -/
def SwitchOutcome.bytes : SwitchOutcome → List Byte
  | .made lug old => [1, old.code] ++ leBytes 2 lug.toNat
  | .refused code index => [3, BitVec.ofNat 8 code] ++ leBytes 2 index
  | .dropped => [4]

/-- The 8 detail bytes of a notice (chapter 12.5). -/
def Notice.detail (n : Notice) : List Byte :=
  let b := fun (x : Nat) => BitVec.ofNat 8 x
  fillTo 8
    (match n with
      | .headError _ flag slot => [flag.code, b slot]
      | .zone _ rule cell => [b rule, b cell]
      | .defectOverflow _ slot => [b slot]
      | .boardFallback _ slot source => [b slot, source.code]
      | .ovrSuperseded _ old new => [b old.station.val, b old.action.code, b new.station.val]
      | .ovrNoBoard _ removed => [b removed.station.val, b removed.action.code]
      | .ovrInvalid _ station x y condition => [b station, b x, b y, b condition]
      | .trimOverrun _ new => leBytes 2 new.toNat
      | .sortOverrun _ new => leBytes 2 new.toNat
      | .binFull _ count => leBytes 4 count.toNat
      | .binOverflow _ bin => [b bin]
      | .logDone _ slot => [b slot]
      | .runClosed _ slot => [b slot]
      | .lineIdle _ => []
      | .bankSwitched _ outcome => outcome.bytes
      | .bankReleased _ lug => leBytes 2 lug.toNat
      | .ringError _ written consumer => leBytes 2 written.toNat ++ leBytes 2 consumer.toNat
      | .guard _ offset length => leBytes 4 offset ++ [b length]
      | .lost _ count => leBytes 2 count.toNat)

/-- A notice slot: the header word and the detail (chapter 12.5); zero until a notice is stored in it (R177). -/
def noticeImage (stamp : Half) (x : Option (Notice × Half)) : List Byte :=
  match x with
  | none => zeroBytes 6 ++ leBytes 2 stamp.toNat ++ zeroBytes 8
  | some (n, seq) =>
    [BitVec.ofNat 8 n.code, 0] ++ leBytes 2 seq.toNat ++ leBytes 2 n.subject.toNat ++ leBytes 2 stamp.toNat ++ n.detail

def statsImage (stamp : Half) (xs : Vector Word 24) : List Byte :=
  fillTo 256 (leBytes 2 stamp.toNat ++ zeroBytes 6 ++ (xs.toList.map fun k => leBytes 4 k.toNat).flatten)

/-- Place of a record's stamp among the 236. -/
def Record.index : Record → Fin 236
  | .status => 0
  | .head h => ⟨1 + h.val, by omega⟩
  | .board i => ⟨10 + i.val, by omega⟩
  | .trim i => ⟨74 + i.val, by omega⟩
  | .sort i => ⟨90 + i.val, by omega⟩
  | .run r => ⟨106 + r.val, by omega⟩
  | .bin n => ⟨114 + n.val, by omega⟩
  | .notice ring slot => ⟨155 + 32 * ring.val + slot.val, by omega⟩
  | .stats => 219
  | .log i => ⟨220 + i.val, by omega⟩

/-- Plain offset of a record (Table 12-1). -/
def Record.offset : Record → Nat
  | .status => 0x000000
  | .head h => 0x020000 + h.val * 0x40
  | .board i => 0x030000 + i.val * 0x200
  | .trim i => 0x040000 + i.val * 0x20
  | .sort i => 0x041000 + i.val * 0x20
  | .run r => 0x050000 + r.val * 0x800
  | .bin n => 0x060000 + n.val * 0x20
  | .notice ring slot => 0x070000 + ring.val * 0x200 + slot.val * 0x10
  | .stats => 0x080000
  | .log i => 0x090000 + i.val * 0x100

/-- The stamp of a record (R155). -/
def State.stamp (s : State) (r : Record) : Half := s.path.stamps[r.index]

/-- The credit a board's request holds; none while the request is absent (Table 5-2). -/
def State.creditHeld (s : State) (i : Fin 64) : Option Credit :=
  if s.boards[i].request = none then none else s.solver.creditOf i

/-- The bytes a record shows in a state. -/
def State.image (s : State) (r : Record) : List Byte :=
  match r with
  | .status => statusImage (s.stamp r) s
  | .head h => headImage (s.stamp r) (Config.unsetSequenceByte s.path.event h.val (s.stamp r).toNat) h s.heads[h]
  | .board i => boardImage (s.stamp r) (s.creditHeld i) s.boards[i]
  | .trim i => trimImage (s.stamp r) s.trimRing[i]
  | .sort i => sortImage (s.stamp r) s.sortRing[i]
  | .run i => runImage (s.stamp r) i s.runs.slots[i]
  | .bin n => binImage (s.stamp r) s.bins[n]
  | .notice ring slot => noticeImage (s.stamp r) s.notices[ring].slots[slot]
  | .stats => statsImage (s.stamp r) s.stats
  | .log i => logImage (s.stamp r) s.logUnit.ring[i]

/-- n blocks of 64 bytes from offset a. -/
def blockWrites : Nat → Nat → List Byte → List InjectedWrite
  | 0, _, _ => []
  | n + 1, a, xs => ⟨a, xs.take 64⟩ :: blockWrites n (a + 64) (xs.drop 64)

/-- R155: a record of one block is one write; one of n + 1 blocks is written body blocks first and header block last. -/
def recordWrites : Nat → Nat → List Byte → List InjectedWrite
  | 0, a, xs => [⟨a, xs⟩]
  | n + 1, a, xs => blockWrites (n + 1) (a + 64) (xs.drop 64) ++ [⟨a, xs.take 64⟩]

/-- The number of body blocks of a record: its size in blocks less one (Table 12-1). -/
def Record.bodyBlocks : Record → Nat
  | .status => 63
  | .head _ => 0
  | .board _ => 7
  | .trim _ => 0
  | .sort _ => 0
  | .run _ => 31
  | .bin _ => 0
  | .notice _ _ => 0
  | .stats => 3
  | .log _ => 3

/-- The unit of the initial publication that holds a record's first content (R162). -/
def Record.initUnit : Record → InitUnit
  | .status => .status
  | .head h => .head h
  | .board i => .board i
  | .trim i => .trimBlock ⟨i.val / 2, by omega⟩
  | .sort i => .sortBlock ⟨i.val / 2, by omega⟩
  | .run r => .run r
  | .bin n => .binBlock ⟨n.val / 2, by omega⟩
  | .notice ring slot => .noticeBlock ⟨8 * ring.val + slot.val / 4, by omega⟩
  | .stats => .stats
  | .log i => .log i

/-- The records of a unit, in ascending offset order. -/
def InitUnit.records : InitUnit → List Record
  | .status => [.status]
  | .head h => [.head h]
  | .board i => [.board i]
  | .trimBlock i => [.trim ⟨2 * i.val, by omega⟩, .trim ⟨2 * i.val + 1, by omega⟩]
  | .sortBlock i => [.sort ⟨2 * i.val, by omega⟩, .sort ⟨2 * i.val + 1, by omega⟩]
  | .run r => [.run r]
  | .binBlock i =>
    .bin ⟨2 * i.val, by omega⟩ :: (if h : 2 * i.val + 1 < 41 then [.bin ⟨2 * i.val + 1, h⟩] else [])
  | .noticeBlock i =>
    let ring : Fin 2 := ⟨i.val / 8, by omega⟩
    [ .notice ring ⟨4 * (i.val % 8), by omega⟩, .notice ring ⟨4 * (i.val % 8) + 1, by omega⟩,
      .notice ring ⟨4 * (i.val % 8) + 2, by omega⟩, .notice ring ⟨4 * (i.val % 8) + 3, by omega⟩ ]
  | .stats => [.stats]
  | .log i => [.log i]

/-- Plain offset of a unit: that of its first record. -/
def InitUnit.offset (u : InitUnit) : Nat := (u.records.head?.map Record.offset).getD 0

/-- The initial writes of a unit, with the content its owner holds (R162). -/
def State.unitWrites (s : State) (u : InitUnit) : List InjectedWrite :=
  recordWrites ((u.records.head?.map Record.bodyBlocks).getD 0) u.offset (u.records.map s.image).flatten

/-- Every unit, in ascending offset order (R162): 962 blocks in all. -/
def initialUnits : List InitUnit :=
  [.status] ++ (List.finRange 9).map .head ++ (List.finRange 64).map .board ++ (List.finRange 8).map .trimBlock
  ++ (List.finRange 8).map .sortBlock ++ (List.finRange 8).map .run ++ (List.finRange 21).map .binBlock
  ++ (List.finRange 16).map .noticeBlock ++ [.stats] ++ (List.finRange 16).map .log

end Sys2Proof.Machine
end

