-- ==== Sys2Proof/Machine/Publish.lean ====
section
/-! DEFINITION. Publication of records (R155, R157, R163), the answer writes of entries (R160) and the raising and
storing of notices (R178, R179). -/

namespace Sys2Proof.Machine

/-- Hand a publication to the path unit. -/
def State.enqueue (s : State) (p : Publication) : State :=
  s.setPath { s.path with publications := s.path.publications ++ [p] }

/-- Republish a record: its stamp grows by 1 and the whole record is handed to the path unit (R155). A record changed
before its own initial write issues no publication, and its stamp stays (R163). -/
def State.publish (s : State) (owner : FunctionalBlock) (r : Record) : State :=
  if r.initUnit ∈ s.path.initialRest then s
  else
    let t := s.setPath { s.path with stamps := s.path.stamps.set r.index (s.stamp r + 1) }
    t.enqueue ⟨.record r, owner, s.path.event, s.stamp r + 1, recordWrites r.bodyBlocks r.offset (t.image r)⟩

/-- Write the answer bytes 10H to 17H of an entry: an injected write, and the same bytes into the shadow (R160, R183). -/
def State.writeAnswer (s : State) (owner : FunctionalBlock) (target : PubTarget) (entryOffset : Nat)
    (bytes : List Byte) : State :=
  let t := s.setShadow (writeBytes s.shadow (placedAt (entryOffset + 0x10) bytes))
  t.enqueue ⟨target, owner, s.path.event, 0, [⟨entryOffset + 0x10, bytes⟩]⟩

/-- The slot of a ring that sequence n uses (R179). -/
def noticeSlot (n : Half) : Fin 32 := Fin.ofNat 32 n.toNat

/-- Step 2 of R179, where there is room: the notice takes the next sequence and is written into its slot; the slot
write is issued before the status block publication (R157). `lost` is the ring's lost count from then on. -/
def State.storeNotice (s : State) (ring : Fin 2) (n : Notice) (lost : Half) : State :=
  let x := s.notices[ring]
  let slot := noticeSlot x.next
  let y : NoticeRing :=
    { x with slots := x.slots.set slot (some (n, x.next)), next := x.next + 1, held := x.held + 1, lost := lost }
  ((s.setNotices ring y).publish .notice (.notice ring slot)).publish .notice .status

/-- Step 3 of R179: a full ring counts the notice as lost, stopping at 65535. -/
def State.loseNotice (s : State) (ring : Fin 2) : State :=
  let x := s.notices[ring]
  if x.lost = BitVec.allOnes 16 then s
  else (s.setNotices ring { x with lost := x.lost + 1 }).publish .notice .status

/-- R179: store a notice in a ring, after a LOST notice if losses are waiting and there is room for it. -/
def State.routeNotice (s : State) (ring : Fin 2) (n : Notice) : State :=
  let x := s.notices[ring]
  let t := if x.lost ≠ 0 ∧ x.held < 32 then s.storeNotice ring (.lost ring.val x.lost) 0 else s
  let y := t.notices[ring]
  if y.held < 32 then t.storeNotice ring n y.lost else t.loseNotice ring

/-- The entry of the route table for a kind code 1 to 18. -/
def routeIndex (code : Nat) : Fin 18 := Fin.ofNat 18 (code - 1)

/-- R178: raise a notice, by the route of its kind at this moment. -/
def State.raise (s : State) (n : Notice) : State :=
  match s.routes[routeIndex n.code] with
  | .none => s
  | .ring0 => s.routeNotice 0 n
  | .ring1 => s.routeNotice 1 n

end Sys2Proof.Machine
end

