-- ==== Sys2Proof/Machine/Grading.lean ====
section
/-! DEFINITION. Measurement reduction (R42 to R44), cell grades (R64 to R69) and segment evaluation (R71 to R78). -/

namespace Sys2Proof.Machine

/-- Head of a cell: head h covers cells 6h to 6h + 5. -/
def cellHead (c : Fin 48) : Fin 8 := ⟨c.val / 6, by omega⟩

/-- The presence of a known cell (R42): k ≥ 1 and 2p ≥ k. -/
def Board.knownPresent (b : Board) (c : Fin 48) : Bool :=
  let k := b.slicesOf (cellHead c)
  decide (1 ≤ k) && decide (k ≤ 2 * b.acc[c].present)

/-- L + 1 for the highest-numbered cell that satisfies p, or 0 if none does. -/
def lengthTo (p : Fin 48 → Bool) : Nat :=
  (List.finRange 48).foldl (fun n c => if p c then c.val + 1 else n) 0

/-- The mean of p readings whose sum is given, rounded half up (R42). -/
def roundedMean (sum p : Nat) : Nat := (sum + p / 2) / p

/-- The reduced entry of a cell (R42, R43); `known1` is L + 1 for the highest known present cell. -/
def Board.reduceCell (b : Board) (known1 : Nat) (c : Fin 48) : Cell :=
  let x := b.acc[c]
  if 1 ≤ b.slicesOf (cellHead c) then
    if b.knownPresent c then
      ⟨roundedMean x.t x.present, roundedMean x.w x.present, roundedMean x.n x.present, true, true, true, 0⟩
    else ⟨0, 0, 0, false, true, true, 0⟩
  else ⟨0, 0, 0, decide (c.val < known1), false, true, 0⟩

/-- R42 to R44: the cell table and the rough length of a board at measurement close. -/
def Board.reduce (b : Board) : Board :=
  let known1 := lengthTo b.knownPresent
  let cells := Vector.ofFn (b.reduceCell known1)
  { b with cells := cells, roughCells := lengthTo fun c => cells[c].present }

/-- The cell value a rule's quantity names: 1 T, 2 W, 3 N (R66). -/
def Cell.quantity (x : Cell) (q : Nat) : Nat :=
  match q with
  | 1 => x.t
  | 2 => x.w
  | _ => x.n

/-- Table 4-3: whether a condition holds for v against the range lo to hi. -/
def conditionHolds (condition v lo hi : Nat) : Bool :=
  match condition with
  | 0 => false
  | 1 => decide (lo ≤ v)
  | 2 => decide (v < lo) || decide (hi < v)
  | 3 => decide (v ≤ hi)
  | 4 => true
  | 5 => decide (v < lo)
  | 6 => decide (lo ≤ v) && decide (v ≤ hi)
  | _ => decide (hi < v)

/-- Whether a limit rule fires on a known present cell (R66, R67); a rule of quantity none is applied to no cell. -/
def ruleFires (m : List Host.Cell) (k : BankId) (r : LimitRule) (x : Cell) : Bool :=
  if r.quantity = 0 then false
  else
    let p := bankBoundary m k r.quantity r.a
    let q := bankBoundary m k r.quantity r.b
    conditionHolds r.condition (x.quantity r.quantity) (min p q) (max p q)

/-- The largest grade among the rules that fire on a cell, or 0 (R67). -/
def rulesGrade (m : List Host.Cell) (k : BankId) (x : Cell) : Nat :=
  (List.range 16).foldl (fun g i => if ruleFires m k (bankRule m k i) x then max g (bankRule m k i).grade else g) 0

/-- The defect grade of a defect: the smallest g in 0 to 6 whose limit admits the size, or 7 (R69). -/
def defectGrade (m : List Host.Cell) (k : BankId) (d : Defect) : Nat :=
  ((List.range 7).find? fun g => decide (d.size ≤ bankMaxSize m k d.kind g)).getD 7

/-- Table 4-2: the grade of a cell. -/
def cellGrade (m : List Host.Cell) (k : BankId) (defects : List Defect) (c : Nat) (x : Cell) : Nat :=
  if x.present then
    if x.known then
      (defects.filter fun d => decide (d.cell = c)).foldl (fun g d => max g (defectGrade m k d)) (rulesGrade m k x)
    else bankUnknownGrade m k
  else 7

/-- R65: the 48 cell grades, from the board's bank (R64). -/
def Board.gradeCells (b : Board) (m : List Host.Cell) : Board :=
  { b with
    cells := Vector.ofFn fun c : Fin 48 => { b.cells[c] with grade := cellGrade m b.bank b.defects c.val b.cells[c] } }

/-- The lowest-numbered cell of a board on which a limit rule fires (R68). -/
def Board.firesOn (b : Board) (m : List Host.Cell) (r : LimitRule) : Option (Fin 48) :=
  (List.finRange 48).find? fun c => b.cells[c].present && b.cells[c].known && ruleFires m b.bank r b.cells[c]

/-- The ZONE notices of a board, in ascending rule index (R68). -/
def Board.zoneNotices (b : Board) (m : List Host.Cell) : List Notice :=
  (List.range 16).filterMap fun i =>
    let r := bankRule m b.bank i
    if r.notice then (b.firesOn m r).map fun c => .zone b.lug i c.val else none

/-- The cells of a segment between saws a and b: 4a to 4b - 1 (chapter 4.3). -/
def Board.segment (b : Board) (x y : Nat) : List Cell := (b.cells.toList.drop (4 * x)).take (4 * (y - x))

/-- The number of defect entries whose cell lies in a segment (R73). -/
def Board.segmentDefects (b : Board) (x y : Nat) : Nat :=
  (b.defects.filter fun d => decide (4 * x ≤ d.cell) && decide (d.cell < 4 * y)).length

/-- R72: the base segment grade. -/
def Board.baseGrade (b : Board) (m : List Host.Cell) (x y : Nat) : Nat :=
  let g := (b.segment x y).foldl (fun g c => max g c.grade) 0
  if b.overflow then max g (bankOverflowGrade m b.bank) else g

/-- R73: from grade g, one step up at a time while the count exceeds the limit of the grade reached, up to 7. -/
def escalate (m : List Host.Cell) (k : BankId) (n : Nat) : Nat → Nat → Nat
  | 0, g => g
  | fuel + 1, g => if g ≤ 6 ∧ bankMaxCount m k g < n then escalate m k n fuel (g + 1) else g

/-- R75: the width class, from the narrowest known cell of the segment (60000 if none is known). -/
def Board.widthClass (b : Board) (m : List Host.Cell) (x y : Nat) : Nat :=
  let w :=
    match (b.segment x y).filter Cell.known with
    | [] => 60000
    | c :: cs => cs.foldl (fun w c => min w c.w) c.w
  ((List.range 5).filter fun i => decide (bankWidthBoundary m b.bank i ≤ w)).length

/-- R76: the value of grade g, length code lc and width class wc. -/
def segmentValue (m : List Host.Cell) (k : BankId) (g lc wc : Nat) : Nat :=
  if g ≤ 6 then bankValue m k g lc wc else 0

/-- R77: the footage, in milli-board-feet; 0 for grade 7. -/
def segmentFootage (m : List Host.Cell) (k : BankId) (g lc wc : Nat) : Nat :=
  if g ≤ 6 then (bankThickness m k * bankWidth m k wc * 2 * lc * 125 + 12) / 24 else 0

/-- The results of a segment evaluation (R71). -/
structure Evaluation where
  grade : Nat
  lc : Nat
  wc : Nat
  value : Nat
  footage : Nat
  deriving DecidableEq, Repr

/-- R71 to R77: evaluate a segment, under a forced grade if a GRADE override is in effect (R74). -/
def Board.evaluate (b : Board) (m : List Host.Cell) (forced : Option Nat) (x y : Nat) : Evaluation :=
  let g := forced.getD (escalate m b.bank (b.segmentDefects x y) 8 (b.baseGrade m x y))
  let wc := b.widthClass m x y
  ⟨g, y - x, wc, segmentValue m b.bank g (y - x) wc, segmentFootage m b.bank g (y - x) wc⟩

end Sys2Proof.Machine
end

