-- ==== Sys2Proof/Machine/Solver.lean ====
section
/-! DEFINITION. The trim solver: the credit pool and the waiting list (R82 to R84), requests and restarts (R85, R88 to
R91), and the choice of a plan (R93 to R98). -/

namespace Sys2Proof.Machine

/-- R82: take a credit for a request of a class: a shared credit if one is free, else the reserved credit of the class
if it is free, else none. -/
def Solver.take (x : Solver) (c : RequestClass) (i : Fin 64) : Option (Credit × Solver) :=
  if x.shared.length < 6 then some (.shared, { x with shared := x.shared ++ [i] })
  else
    match c with
    | .first =>
      if x.reservedFirst = none then some (.reservedFirst, { x with reservedFirst := some i }) else none
    | .resolve =>
      if x.reservedResolve = none then some (.reservedResolve, { x with reservedResolve := some i }) else none

/-- Return whatever credit a board slot holds to its own pool. -/
def Solver.giveBack (x : Solver) (i : Fin 64) : Solver :=
  { x with
    shared := x.shared.erase i
    reservedFirst := if x.reservedFirst = some i then none else x.reservedFirst
    reservedResolve := if x.reservedResolve = some i then none else x.reservedResolve }

/-- Take a board slot off the waiting list. -/
def Solver.unwait (x : Solver) (i : Fin 64) : Solver := { x with waiting := x.waiting.erase i }

/-- Count a reserved-credit use (R82). -/
def State.countCredit (s : State) (c : Credit) : State :=
  match c with
  | .shared => s
  | .reservedFirst => s.bump .reservedUses
  | .reservedResolve => s.bump .reservedUses

/-- Raise a request of a class for a board (R81, R85): it takes a credit and the board is QUEUED, or it takes none, a
credit wait is counted, and the board is AWAITING at its lug's place in the waiting list (R83). -/
def State.raiseRequest (s : State) (c : RequestClass) (i : Fin 64) : State :=
  match s.solver.take c i with
  | some (k, x) =>
    ((s.setSolver x).setBoard i { s.boards[i] with request := some c, state := .queued }).countCredit k
  | none =>
    ((s.setSolver { s.solver with waiting := s.insertByAge i s.solver.waiting }).setBoard i
      { s.boards[i] with request := some c, state := .awaiting }).bump .creditWaits

/-- Offer a credit to one waiter (R84): if it can take one by R82 it leaves the list and becomes QUEUED. -/
def State.serveOne (s : State) (i : Fin 64) : State :=
  match s.solver.take (s.boards[i].request.getD .first) i with
  | some (k, x) =>
    (((s.setSolver (x.unwait i)).setBoard i { s.boards[i] with state := .queued }).countCredit k).publish
      .lugTracker (.board i)
  | none => s

/-- R84: serve the waiting list, oldest first, to its end. -/
def State.serveWaiting (s : State) : State := s.forEach s.solver.waiting State.serveOne

/-- R88: abandon the solve in flight and make its board QUEUED again, counted as a restart. -/
def State.restartSolve (s : State) (i : Fin 64) : State :=
  ((s.setSolver { s.solver with inFlight := none }).setBoard i { s.boards[i] with state := .queued }).bump .solvesRestarted

/-- Table 5-3, but for the publication of the record, which the caller makes. -/
def State.resolveCause (s : State) (i : Fin 64) : State :=
  match s.boards[i].state with
  | .solving => s.restartSolve i
  | .solved =>
    (s.setBoard i { s.boards[i] with stale := s.boards[i].plan, plan := none }).raiseRequest .resolve i
  | .free => s
  | .measuring => s
  | .awaiting => s
  | .queued => s
  | .committed => s

/-- End a board's request without a result: the request absent, its credit back in its pool, its place in the waiting
list gone, and a solve in flight for it abandoned (R90, R91). Nothing is served here. -/
def State.dropRequest (s : State) (i : Fin 64) : State :=
  let x := (s.solver.giveBack i).unwait i
  let inFlight := if s.solver.inFlight.map Solve.slot = some i then none else s.solver.inFlight
  (s.setSolver { x with inFlight := inFlight }).setBoard i { s.boards[i] with request := none }

/-- R90: the cancellation of a request at commit. -/
def State.cancelAtCommit (s : State) (i : Fin 64) : State :=
  match s.boards[i].state with
  | .solving => ((s.dropRequest i).bump .cancelledAtCommit).serveWaiting
  | .queued => ((s.dropRequest i).bump .cancelledAtCommit).serveWaiting
  | .awaiting => (s.dropRequest i).bump .cancelledAtCommit
  | .free => s
  | .measuring => s
  | .solved => s
  | .committed => s

/-- R94, condition 4: every cell of the segment is present. -/
def Board.segmentPresent (b : Board) (x y : Nat) : Bool := (b.segment x y).all Cell.present

/-- Condition 3 of R94: both saws are in the mask. -/
def sawsEnabled (mask : SawSet) (x y : Nat) : Bool := mask.getLsbD x && mask.getLsbD y

/-- The first of conditions 2 to 4 of R94 that the segment (x, y) fails, or none. -/
def Board.segmentFault (b : Board) (m : List Host.Cell) (mask : SawSet) (x y : Nat) : Option Nat :=
  if y - x < bankMinLen m b.bank then some 2
  else if !sawsEnabled mask x y then some 3
  else if !b.segmentPresent x y then some 4
  else none

/-- The 78 pairs of saws (a, b) with a < b ≤ 12 (chapter 5.3). -/
def sawPairs : List (Nat × Nat) :=
  (List.range 13).flatMap fun x => ((List.range 13).filter fun y => decide (x < y)).map fun y => (x, y)

/-- The valid candidates of a solve (R94). -/
def Board.candidates (b : Board) (m : List Host.Cell) (mask : SawSet) : List (Nat × Nat) :=
  sawPairs.filter fun p => (b.segmentFault m mask p.1 p.2).isNone

/-- R95: greater value, then greater length code, then smaller a. -/
def betterThan (p q : Nat × Evaluation) : Bool :=
  if p.2.value = q.2.value then
    if p.2.lc = q.2.lc then decide (p.1 < q.1) else decide (q.2.lc < p.2.lc)
  else decide (q.2.value < p.2.value)

/-- The best of the evaluated candidates (R95), each given by its saw a. -/
def bestOf : List (Nat × Evaluation) → Option (Nat × Evaluation)
  | [] => none
  | p :: ps =>
    match bestOf ps with
    | none => some p
    | some q => if betterThan p q then some p else some q

/-- A REMAN plan (R93). -/
def remanPlan (reason : RemanReason) (source : PlanSource) (o : Option Override) (mask : SawSet) (n : Nat) : Plan where
  reason := some reason
  a := 0
  b := 0
  grade := 7
  lc := 0
  wc := 0
  value := 0
  footage := 0
  source := source
  overrideUsed := o
  maskUsed := mask
  candidates := n

/-- A PRODUCT plan of the segment that starts at saw x, with its evaluation (R93). -/
def productPlan (x : Nat) (e : Evaluation) (source : PlanSource) (o : Option Override) (mask : SawSet) (n : Nat) : Plan where
  reason := none
  a := x
  b := x + e.lc
  grade := e.grade
  lc := e.lc
  wc := e.wc
  value := e.value
  footage := e.footage
  source := source
  overrideUsed := o
  maskUsed := mask
  candidates := n

/-- R95 and R96: choose among all valid candidates, under a forced grade if there is one. -/
def Board.choosePlan (b : Board) (m : List Host.Cell) (forced : Option Nat) (source : PlanSource)
    (o : Option Override) (mask : SawSet) : Plan :=
  let valid := b.candidates m mask
  match bestOf (valid.map fun p => (p.1, b.evaluate m forced p.1 p.2)) with
  | none => remanPlan .noCandidate source o mask 0
  | some (x, e) =>
    if 0 < e.value then productPlan x e source o mask valid.length
    else remanPlan .zeroValue source o mask valid.length

/-- R97: the plan of a solve under a TRIM override of saws (x, y). -/
def Board.trimPlan (b : Board) (m : List Host.Cell) (x y : Nat) (o : Option Override) (mask : SawSet) : Plan :=
  match b.segmentFault m mask x y with
  | some _ => remanPlan .ovrInvalid .ovrInvalid o mask 0
  | none =>
    let e := b.evaluate m none x y
    if 0 < e.value then productPlan x e .override o mask 1 else remanPlan .zeroValue .override o mask 1

/-- The result of a solve, by the override and saw mask recorded at its begin (R93 to R98). -/
def Board.solve (b : Board) (m : List Host.Cell) (o : Option Override) (mask : SawSet) : Plan :=
  match o with
  | none => b.choosePlan m none .solved none mask
  | some v =>
    match v.action with
    | .grade g => b.choosePlan m (some g.val) .override o mask
    | .trim x y => b.trimPlan m x.val y.val o mask
    | .reman => remanPlan .ovrReman .override o mask 0

/-- The OVR_INVALID notice of a completion, where its plan calls for one (R97). -/
def Board.invalidNotice (b : Board) (m : List Host.Cell) (o : Option Override) (mask : SawSet) : Option Notice :=
  match o with
  | none => none
  | some v =>
    match v.action with
    | .trim x y => (b.segmentFault m mask x.val y.val).map fun c => .ovrInvalid b.lug v.station.val x.val y.val c
    | .grade _ => none
    | .reman => none

/-- Raise a notice if there is one. -/
def State.raiseIf (s : State) (n : Option Notice) : State :=
  match n with
  | none => s
  | some n => s.raise n

/-- R86: the begin of a solve. With a solve in flight, or no board QUEUED, there is none (log entry 15). -/
def State.beginSolve (s : State) : State :=
  match s.solver.inFlight, s.boardsByAge fun b => decide (b.state = .queued) with
  | none, i :: _ =>
    ((s.setSolver { s.solver with inFlight := some ⟨i, s.boards[i].override, s.sawMask⟩ }).setBoard i
      { s.boards[i] with state := .solving }).publish .lugTracker (.board i)
  | _, _ => s

/-- Steps 1 to 3 of R87: store the plan, discard the stale plan, end the request. -/
def State.storePlan (s : State) (i : Fin 64) (p : Plan) : State :=
  (s.setSolver { s.solver with inFlight := none }).setBoard i
    { s.boards[i] with plan := some p, stale := none, request := none, state := .solved }

/-- R87: the completion of the solve in flight. With none in flight there is no completion (log entry 15). -/
def State.completeSolve (s : State) : State :=
  match s.solver.inFlight with
  | none => s
  | some v =>
    let b := s.boards[v.slot]
    let t := (s.storePlan v.slot (b.solve s.shadow v.override v.mask)).raiseIf
      (b.invalidNotice s.shadow v.override v.mask)
    let u := (t.publish .lugTracker (.board v.slot)).bump .solvesCompleted
    (u.setSolver (u.solver.giveBack v.slot)).serveWaiting

/-- SOLVE_BEGIN. -/
def execSolveBegin (s : State) : Host.Outcome State Fault Refusal := .next s.beginEvent.beginSolve

/-- SOLVE_COMPLETION. -/
def execSolveCompletion (s : State) : Host.Outcome State Fault Refusal := .next s.beginEvent.completeSolve

end Sys2Proof.Machine
end

