-- ==== Sys2Proof/Machine/Tally.lean ====
section
/-! DEFINITION. Sawing runs (R57 to R62), run tallies (R137 to R143) and the bank references, releases and switches
(R169 to R175). -/

namespace Sys2Proof.Machine

/-- The run slot in use whose run has a number. R57 says that the numbers of the runs in use are distinct, and R58 gives
a number again after 65535 openings, also while a CLOSED run not yet consumed holds it: of two slots in use with one
number the lowest is taken (the model's choice, log entry 23). -/
def State.runOf (s : State) (number : Half) : Option (Fin 8) :=
  (List.finRange 8).find? fun r => decide (s.runs.slots[r].state ≠ .free) && decide (s.runs.slots[r].number = number)

/-- Change the run of a number, if one is in use. -/
def State.onRun (s : State) (number : Half) (f : RunSlot → RunSlot) : State :=
  match s.runOf number with
  | some r => s.setRun r (f s.runs.slots[r])
  | none => s

/-- Republish the record of the run of a number (R61). -/
def State.publishRun (s : State) (number : Half) : State :=
  match s.runOf number with
  | some r => s.publish .tally (.run r)
  | none => s

/-- R142: the footage total divided by the litres, rounded down, at most 65535; 0 while there are no litres. -/
def Tally.recomputed (t : Tally) : Tally :=
  { t with
    recovery :=
      if t.litres = 0 then 0 else BitVec.ofNat 16 (min 65535 (t.footage.toNat / t.litres.toNat)) }

/-- R139: a closed log of v litres. -/
def Tally.addLog (t : Tally) (v : Nat) : Tally :=
  ({ t with logs := satAdd t.logs 1, litres := satAdd t.litres v } : Tally).recomputed

/-- Entry [G][Lc] of the grade by length matrix. -/
def matrixIndex (g lc : Nat) : Fin 84 := Fin.ofNat 84 (g * 12 + (lc - 1))

/-- R140: a sorted board of grade g, length code lc, value v and footage f. -/
def Tally.addSorted (t : Tally) (g lc v f : Nat) : Tally :=
  let k : Fin 8 := Fin.ofNat 8 g
  ({ t with
      sorted := satAdd t.sorted 1
      pieces := t.pieces.set k (satAdd t.pieces[k] 1)
      footageBy := t.footageBy.set k (satAdd t.footageBy[k] f)
      matrix :=
        if g ≤ 6 then t.matrix.set (matrixIndex g lc) (satAdd t.matrix[matrixIndex g lc] 1) else t.matrix
      footage := satAdd t.footage f
      value := satAdd t.value v } : Tally).recomputed

/-- R11: a board opened into the run. -/
def RunSlot.addOpened (x : RunSlot) : RunSlot :=
  { x with inLine := x.inLine + 1, tally := { x.tally with opened := satAdd x.tally.opened 1 } }

/-- R141: a board of the run lost. -/
def RunSlot.addLost (x : RunSlot) : RunSlot :=
  { x with inLine := x.inLine - 1, tally := { x.tally with lost := satAdd x.tally.lost 1 } }

/-- R141: a fallback in the run. -/
def RunSlot.addFallback (x : RunSlot) : RunSlot :=
  { x with tally := { x.tally with fallbacks := satAdd x.tally.fallbacks 1 } }

/-- R140 and R15: a board of the run sorted, with the boards-in-line change of the same event (R138). -/
def RunSlot.addSorted (x : RunSlot) (g lc v f : Nat) : RunSlot :=
  { x with inLine := x.inLine - 1, tally := x.tally.addSorted g lc v f }

/-- R60: a FINISHING run with no board in line becomes CLOSED. -/
def RunSlot.closes (x : RunSlot) : Bool := decide (x.state = .finishing) && decide (x.inLine = 0)

/-- Publish a run's record after an event, closing the run first if it is FINISHING with no board in line (R60, R138).
R61 names the log unit and the tally unit together: the model has the tally unit publish the record, also at the
RUN_ADVANCE that makes the run FINISHING or CLOSED (the model's choice, log entry 20). -/
def State.settleRun (s : State) (r : Fin 8) : State :=
  let x := s.runs.slots[r]
  if x.closes then
    ((s.setRun r { x with state := .closed }).publish .tally (.run r)).raise (.runClosed x.number r.val)
  else s.publish .tally (.run r)

/-- One event of the run of a number that moves a board out of line (R138). -/
def State.leaveRun (s : State) (number : Half) (f : RunSlot → RunSlot) : State :=
  match s.runOf number with
  | some r => (s.setRun r (f s.runs.slots[r])).settleRun r
  | none => s

/-- The run number after n: from 65535 to 1 (R58). -/
def nextRunNumber (n : Half) : Half := if n = BitVec.allOnes 16 then 1 else n + 1

/-- The lowest-numbered FREE run slot. -/
def RunUnit.freeSlot (x : RunUnit) : Option (Fin 8) :=
  (List.finRange 8).find? fun r => decide (x.slots[r].state = .free)

/-- Steps 1 to 4 of R58, in slot r. -/
def RunUnit.open (x : RunUnit) (r : Fin 8) : RunUnit where
  slots := x.slots.set r ⟨.opened, x.nextNumber, 0, Tally.zero⟩
  queue := x.queue ++ [r]
  nextNumber := nextRunNumber x.nextNumber
  infeed := some r
  outfeed := if x.outfeed = none then some r else x.outfeed

/-- R58: open a run in a slot, and republish its record and the status block. -/
def State.openRun (s : State) (r : Fin 8) : State :=
  ((({ s with runs := s.runs.open r } : State)).publish .log (.run r)).publish .log .status

/-- The run after r in the run queue: the next younger run (R59). -/
def nextInQueue (r : Fin 8) : List (Fin 8) → Option (Fin 8)
  | [] => none
  | [_] => none
  | x :: y :: rest => if x = r then some y else nextInQueue r (y :: rest)

/-- The outfeed run and the next younger run, when there are both (R59). -/
def RunUnit.advanceTo (x : RunUnit) : Option (Fin 8 × Fin 8) :=
  match x.outfeed with
  | none => none
  | some r => (nextInQueue r x.queue).map fun q => (r, q)

/-- R59: the run in r becomes FINISHING and q the outfeed run; r closes at once if no board of it is in line. The record
of r is the tally unit's publication, those of q and of the status block are the log unit's (the model's choice, log
entry 20). -/
def State.advanceRun (s : State) (r q : Fin 8) : State :=
  let t : State :=
    { s with
      runs :=
        { s.runs with slots := s.runs.slots.set r { s.runs.slots[r] with state := .finishing }, outfeed := some q } }
  ((t.settleRun r).publish .log (.run q)).publish .log .status

/-- Change a bank's reference count and republish the status block (R170). -/
def State.setRefs (s : State) (k : BankId) (n : Nat) : State :=
  (s.setBanks (s.banks.setRefs k n)).publish .command .status

/-- R175: release a HELD bank with no reference left; lug is that of the board whose leaving released it. -/
def State.releaseBank (s : State) (k : BankId) (lug : Half) : State :=
  if s.banks.state k = .held ∧ s.banks.refs k = 0 then
    ((s.setBanks (s.banks.setState k .spare)).raise (.bankReleased k lug)).publish .command .status
  else s

/-- A board of lug n sorted from a bank: its reference goes, and a HELD bank may be released (R15, R170, R175). -/
def State.dropReference (s : State) (k : BankId) (lug : Half) : State :=
  (s.setRefs k (s.banks.refs k - 1)).releaseBank k lug

/-- R172: make a switch to a bank; n is the lug at which it is made. -/
def State.makeSwitch (s : State) (k : BankId) (n : Half) : State :=
  let old := k.other
  let oldState : BankState := if 0 < s.banks.refs old then .held else .spare
  let x := { (s.banks.setState k .active).setState old oldState with pendingSwitch := none }
  ((s.setBanks x).raise (.bankSwitched k (.made n oldState))).publish .command .status

/-- R173: lug n enters scan; a switch pending for it is made if its bank passes validation, and refused otherwise. -/
def State.switchAtLug (s : State) (n : Half) : State :=
  match s.banks.pendingSwitch with
  | none => s
  | some (k, lug) =>
    if lug = n then
      match bankCheck s.shadow k with
      | none => s.makeSwitch k n
      | some (code, index) =>
        ((s.setBanks { s.banks with pendingSwitch := none }).publish .command .status).raise
          (.bankSwitched k (.refused code index))
    else s

/-- R174: at an entry to IDLE a pending switch is dropped. -/
def State.dropPendingSwitch (s : State) : State :=
  match s.banks.pendingSwitch with
  | none => s
  | some (k, _) => (s.setBanks { s.banks with pendingSwitch := none }).raise (.bankSwitched k .dropped)

end Sys2Proof.Machine
end

