-- ==== Sys2Proof/Machine/Output.lean ====
section
/-! DEFINITION. The output unit: committed plan selection and commit (R119 to R124), late revision (R126), bin choice
and sort (R127 to R131), consumption of trim and sort slots (R125). -/

namespace Sys2Proof.Machine

/-- A REMAN committed plan (R121). -/
def remanCommit (source : CommitSource) : CommittedPlan where
  product := false
  a := 0
  b := 0
  grade := 7
  lc := 0
  wc := 0
  value := 0
  footage := 0
  source := source
  bin := none

def PlanSource.commitSource : PlanSource → CommitSource
  | .solved => .solved
  | .override => .override
  | .ovrInvalid => .ovrInvalid

/-- A committed plan taken from a plan (R121). -/
def Plan.committed (p : Plan) : CommittedPlan where
  product := decide (p.reason = none)
  a := p.a
  b := p.b
  grade := p.grade
  lc := p.lc
  wc := p.wc
  value := p.value
  footage := p.footage
  source := p.source.commitSource
  bin := none

/-- R78: recompute a committed plan at grade g, from a bank, keeping its saws, length code and width class. -/
def CommittedPlan.recomputed (p : CommittedPlan) (m : List Host.Cell) (k : BankId) (g : Nat) (source : CommitSource) :
    CommittedPlan :=
  { p with
    grade := g
    value := segmentValue m k g p.lc p.wc
    footage := segmentFootage m k g p.lc p.wc
    source := source }

/-- Step 3 of R120 on a PRODUCT stale plan under a GRADE override of grade g. -/
def staleCommit (m : List Host.Cell) (k : BankId) (mask : SawSet) (p : Plan) (g : Nat) : CommittedPlan :=
  if sawsWithin p.saws mask then p.committed.recomputed m k g .staleGrade else remanCommit .sawLost

/-- Steps 4 and 5 of R120. -/
def unsolvedCommit (o : Option Override) : CommittedPlan :=
  match o.map Override.action with
  | some (.trim _ _) => remanCommit .lateTrim
  | some (.grade _) => remanCommit .noSolution
  | some .reman => remanCommit .noSolution
  | none => remanCommit .noSolution

/-- Steps 3 to 5 of R120. -/
def Board.commitWithoutSolution (b : Board) (m : List Host.Cell) (mask : SawSet) : CommittedPlan :=
  match b.stale, b.override.map Override.action with
  | some p, some (.grade g) =>
    if p.reason = none then staleCommit m b.bank mask p g.val else unsolvedCommit b.override
  | _, _ => unsolvedCommit b.override

/-- R120: the committed plan of a board, by the first step that applies. -/
def Board.selectCommit (b : Board) (m : List Host.Cell) (mask : SawSet) : CommittedPlan :=
  if b.override.map Override.action = some .reman then remanCommit .override
  else
    match b.state, b.plan with
    | .solved, some p =>
      if p.overrideUsed = b.override then p.committed else b.commitWithoutSolution m mask
    | _, _ => b.commitWithoutSolution m mask

/-- R122: a REMAN commit that no override caused. -/
def CommittedPlan.isFallback (p : CommittedPlan) : Bool :=
  !p.product && (decide (p.source = .solved) || decide (p.source = .sawLost) || decide (p.source = .lateTrim)
    || decide (p.source = .noSolution))

/-- R122: count a fallback in the board's run and in the statistics, and raise its notice. -/
def State.countFallback (s : State) (i : Fin 64) (p : CommittedPlan) : State :=
  if p.isFallback then
    let n := s.boards[i].run
    ((((s.onRun n RunSlot.addFallback).publishRun n).bump .fallbacks)).raise
      (.boardFallback s.boards[i].lug i.val p.source)
  else s

def ringSlot (lug : Half) : Fin 16 := Fin.ofNat 16 lug.toNat

/-- R123 and R124: write the trim record of a lug, counting an overrun of an unconsumed one. -/
def State.writeTrim (s : State) (lug : Half) (x : TrimSlot) : State :=
  let i := ringSlot lug
  let old := s.trimRing[i]
  let t := if old.state = .written then (s.bump .trimOverruns).raise (.trimOverrun old.lug lug) else s
  (t.setTrim i x).publish .output (.trim i)

/-- The trim record of a board lug and of an empty lug (R123). -/
def trimOf (lug : Half) : Option CommittedPlan → TrimSlot
  | some p => ⟨.written, lug, true, p.saws, some p.source, p.grade, p.lc⟩
  | none => ⟨.written, lug, false, 0, none, 0, 0⟩

/-- R119 and R14: the commit of the board in a slot. -/
def State.commitBoard (s : State) (i : Fin 64) : State :=
  let t := s.cancelAtCommit i
  let p := t.boards[i].selectCommit t.shadow t.sawMask
  let u := t.setBoard i { t.boards[i] with committed := some p, stale := none }
  let v := (u.countFallback i p).writeTrim u.boards[i].lug (trimOf u.boards[i].lug (some p))
  (v.setBoard i { v.boards[i] with state := .committed }).publish .lugTracker (.board i)

/-- The commit position of a lug (Table 1-7, R119). -/
def State.commitLug (s : State) (lug : Half) : State :=
  match s.entry lug with
  | none => s
  | some e =>
    match e.board with
    | some i => s.commitBoard i
    | none => s.writeTrim lug (trimOf lug none)

/-- R126: revise a committed plan by a late GRADE or REMAN override. -/
def CommittedPlan.revised (p : CommittedPlan) (m : List Host.Cell) (k : BankId) (a : OverrideAction) : CommittedPlan :=
  if p.product then
    match a with
    | .grade g => p.recomputed m k g.val .late
    | .reman => p.recomputed m k 7 .late
    | .trim _ _ => p
  else p

def State.reviseLate (s : State) (i : Fin 64) (a : OverrideAction) : State :=
  s.setBoard i
    { s.boards[i] with committed := s.boards[i].committed.map fun p => p.revised s.shadow s.boards[i].bank a }

/-- A bin is available when it is bin 0 or OPEN (R127). -/
def State.available (s : State) (n : Fin 41) : Bool := decide (n = 0) || decide (s.bins[n].state = .opened)

/-- The alternate of a bin 1 to 40 in the configuration in force (R128); bin 0 has none and needs none. -/
def State.alternateOf (s : State) (n : Fin 41) : Fin 41 :=
  match s.config with
  | none => 0
  | some c => if h : 1 ≤ n.val then Fin.ofNat 41 c.alternate[n.val - 1] else 0

/-- R128: the bin and the overflow code, from the matrix bin in up to two hops. -/
def State.chooseBin (s : State) (n : Fin 41) : Fin 41 × Nat :=
  if s.available n then (n, 0)
  else
    let n1 := s.alternateOf n
    if s.available n1 then (n1, 1)
    else
      let n2 := s.alternateOf n1
      if s.available n2 then (n2, 2) else (0, 3)

/-- The matrix bin of a committed plan of grade 0 to 6 (R127). -/
def matrixBin (m : List Host.Cell) (k : BankId) (p : CommittedPlan) : Fin 41 :=
  Fin.ofNat 41 (bankSortEntry m k (entryNumber p.grade p.lc p.wc))

/-- R127 and R128: the bin and overflow code of a committed plan; grade 7 goes to bin 0. -/
def State.binFor (s : State) (k : BankId) (p : CommittedPlan) : Fin 41 × Nat :=
  if p.grade = 7 then (0, 0) else s.chooseBin (matrixBin s.shadow k p)

/-- Step 4 of R128: the BIN_OVERFLOW of overflow code 3. -/
def State.countOverflow (s : State) (lug : Half) (k : BankId) (p : CommittedPlan) (code : Nat) : State :=
  if code = 3 then (s.raise (.binOverflow lug (matrixBin s.shadow k p).val)).bump .binOverflows else s

/-- Capacity of a bin 1 to 40 in the configuration in force (R129). -/
def State.capacityOf (s : State) (n : Fin 41) : Option Nat :=
  match s.config with
  | none => none
  | some c => if h : 1 ≤ n.val then some c.capacity[n.val - 1] else none

/-- Whether a count has reached a bin's capacity (R129); bin 0 has none. -/
def State.reachesCapacity (s : State) (n : Fin 41) (count : Word) : Bool :=
  (s.capacityOf n).any fun cap => decide (cap ≤ count.toNat)

/-- R129: a piece into a bin: its count and lifetime total, FULL and BIN_FULL on reaching the capacity. -/
def State.fillBin (s : State) (n : Fin 41) : State :=
  let x := s.bins[n]
  let count := satAdd x.count 1
  let full := s.reachesCapacity n count
  let y : Bin :=
    { x with count := count, lifetime := satAdd x.lifetime 1, state := if full then .full else x.state }
  let t := s.setBin n y
  let u := if full then t.raise (.binFull n.val count) else t
  u.publish .output (.bin n)

/-- R130: write the sort record of a lug, counting an overrun of an unconsumed one. -/
def State.writeSort (s : State) (lug : Half) (x : SortSlot) : State :=
  let i := ringSlot lug
  let old := s.sortRing[i]
  let t := if old.state = .written then (s.bump .sortOverruns).raise (.sortOverrun old.lug lug) else s
  (t.setSort i x).publish .output (.sort i)

/-- R15 and step 6 of R131: free the board in a slot: its record FREE, its run's boards in line and its bank. The tally
of the sort and the boards-in-line change are published once (R138). -/
def State.freeSorted (s : State) (i : Fin 64) (p : CommittedPlan) : State :=
  let b := s.boards[i]
  let t := (s.setBoard i { b with state := .free }).publish .lugTracker (.board i)
  (t.leaveRun b.run fun x => x.addSorted p.grade p.lc p.value p.footage).dropReference b.bank b.lug

/-- The committed plan of a board; a board reaches sort COMMITTED, so it has one (log entry 18). -/
def Board.committedPlan (b : Board) : CommittedPlan := b.committed.getD (remanCommit .noSolution)

/-- R131: the sort of the board in a slot into bin n, with its overflow code. -/
def State.sortInto (s : State) (i : Fin 64) (n : Fin 41) (code : Nat) : State :=
  let b := s.boards[i]
  let p := b.committedPlan
  let t := (s.countOverflow b.lug b.bank p code).fillBin n
  let u := t.setBoard i { t.boards[i] with committed := some { p with bin := some n } }
  (u.writeSort b.lug ⟨.written, b.lug, true, n.val, p.grade, p.lc, p.wc, code⟩).freeSorted i p

/-- R127 and R131: the sort of the board in a slot into the bin chosen for it. -/
def State.sortBoard (s : State) (i : Fin 64) : State :=
  let x := s.binFor s.boards[i].bank s.boards[i].committedPlan
  s.sortInto i x.1 x.2

/-- R5: the entry of LINE_IDLE at drain completion, when no board is in use and no log is open in DRAIN. -/
def State.drainIfDone (s : State) : State :=
  if s.lineState = .drain ∧ s.anyInUse = false ∧ s.logUnit.openLog = none then
    let t : State := { s with lugLine := Vector.replicate 64 none, held := [] }
    let u := ((t.dropPendingSwitch.setLineState .idle).publish .lugTracker .status).publish .tally .stats
    u.raise (.lineIdle u.lc)
  else s

/-- The sort position of a lug (Table 1-7, R10, R130, R131): the entry leaves the line, and in DRAIN the line may
complete its drain (R5). -/
def State.sortLug (s : State) (lug : Half) : State :=
  match s.entry lug with
  | none => s
  | some e =>
    match e.board with
    | some i => ((s.sortBoard i).setEntry lug none).drainIfDone
    | none => (s.writeSort lug ⟨.written, lug, false, 0, 0, 0, 0, 0⟩).setEntry lug none

/-- R125, on a trim slot: a returned WRITTEN record of the lug the slot still holds WRITTEN is consumed. -/
def State.consumeTrim (s : State) (i : Fin 16) (header : List Byte) : State :=
  let x := s.trimRing[i]
  if headerByte header 0 = 1 ∧ x.state = .written ∧ x.lug = headerHalf header 2 then
    (s.setTrim i { x with state := .consumed }).publish .output (.trim i)
  else s

/-- R125, on a sort slot. -/
def State.consumeSort (s : State) (i : Fin 16) (header : List Byte) : State :=
  let x := s.sortRing[i]
  if headerByte header 0 = 1 ∧ x.state = .written ∧ x.lug = headerHalf header 2 then
    (s.setSort i { x with state := .consumed }).publish .output (.sort i)
  else s

end Sys2Proof.Machine
end

