-- ==== Sys2Proof/Machine/Logs.lean ====
section
/-! DEFINITION. The log unit's assembly of logs and the log ring (R45 to R56). -/

namespace Sys2Proof.Machine

/-- A section as the log unit stores it: each diameter clamped to 2000 (R45). -/
def Frame.section (f : Frame) : Nat × Nat := (min f.dx 2000, min f.dy 2000)

/-- R54: the volume of a log in litres. -/
def OpenLog.volume (x : OpenLog) : Nat :=
  let area := x.sections.foldl (fun a d => a + d.1 * d.2) 0
  (area * 51472 * 250 / 65536 + 500000) / 1000000

/-- R55: the diameter of one end. -/
def endDiameter (d : Nat × Nat) : Nat := (d.1 + d.2) / 2

/-- The content of the record of a log that closes (R53): `seq` is the new close count, `run` the infeed run's number. -/
def OpenLog.record (x : OpenLog) (seq run : Half) (truncated : Bool) : LogRecord :=
  let first := endDiameter (x.sections.headD (0, 0))
  let last := endDiameter (x.sections.getLastD (0, 0))
  { closeSeq := seq
    number := x.number
    run := run
    sections := x.sections.length
    interpolated := x.interpolated
    truncated := truncated
    length := x.sections.length * 250
    smallEnd := min first last
    largeEnd := max first last
    volume := x.volume }

/-- R56: the slot that close count n writes. -/
def logSlot (n : Half) : Fin 16 := Fin.ofNat 16 (n - 1).toNat

/-- R53 step 3: the closed log in the infeed run's tally (R139). -/
def State.tallyLog (s : State) (volume : Nat) : State :=
  match s.runs.infeed with
  | none => s
  | some r =>
    (s.setRun r { s.runs.slots[r] with tally := s.runs.slots[r].tally.addLog volume }).publish .tally (.run r)

/-- The number of the infeed run, 0 while there is none. -/
def State.infeedNumber (s : State) : Half := (s.runs.infeed.map fun r => s.runs.slots[r].number).getD 0

/-- R53: the close of the open log x. -/
def State.closeLog (s : State) (x : OpenLog) (truncated : Bool) : State :=
  let n := s.logUnit.closeCount + 1
  let i := logSlot n
  let t := s.setLogUnit
    { openLog := none, closeCount := n, ring := s.logUnit.ring.set i (x.record n s.infeedNumber truncated) }
  ((((t.publish .log (.log i)).tallyLog x.volume).raise (.logDone x.number i.val))).drainIfDone

/-- Close the open log as TRUNCATED, if there is one. -/
def State.truncateLog (s : State) : State :=
  match s.logUnit.openLog with
  | none => s
  | some x => s.closeLog x true

/-- The log head among the nine heads. -/
def logHead : Fin 9 := 8

/-- R47 and R50: the open log with the frame's section in it, then the frame counted as taken, and then, at an end flag,
the close, not truncated. -/
def State.storeLog (s : State) (x : OpenLog) (ends : Bool) : State :=
  let t := (s.setLogUnit { s.logUnit with openLog := some x }).countFrame logHead .taken
  if ends then t.closeLog x false else t

/-- R50: the log with section j appended, the entries before it filled by holding the last one. -/
def OpenLog.append (x : OpenLog) (j : Nat) (d : Nat × Nat) : OpenLog where
  number := x.number
  sections :=
    x.sections ++ List.replicate (j - x.sections.length) (x.sections.getLastD (0, 0)) ++ [d]
  interpolated := x.interpolated + (j - x.sections.length)

/-- R49 and R50: a frame of section 1 or more against the open log x. The frame that closes the log at the third test is
counted after the close, in the order of that test's words (log entry 21). -/
def State.addSection (s : State) (x : OpenLog) (f : Frame) : State :=
  if f.number ≠ x.number then s.countFrame logHead .droppedOld
  else if f.index < x.sections.length then s.countFrame logHead .droppedOld
  else if 95 < f.index then (s.closeLog x true).countFrame logHead .droppedOld
  else s.storeLog (x.append f.index f.section) f.flag

/-- R45 to R50: a log frame received by the log unit, in RUN or DRAIN, with its outcome counted (R31). In DRAIN a section
0 closes the open log and is "then" skipped (R48): it is counted after the close (log entry 21). -/
def State.takeLogFrame (s : State) (f : Frame) : State :=
  if f.index = 0 then
    if s.lineState = .run then s.truncateLog.storeLog ⟨f.number, [f.section], 0⟩ f.flag
    else s.truncateLog.countFrame logHead .skipped
  else
    match s.logUnit.openLog with
    | none => s.countFrame logHead .droppedOld
    | some x => s.addSection x f

end Sys2Proof.Machine
end

