-- ==== Sys2Proof/Machine/Measurement.lean ====
section
/-! DEFINITION. Measurement close of a lug (R12, R41 to R44, R68, R81) and the early close test (R41). -/

namespace Sys2Proof.Machine

/-- The close of a board (R12): its cells reduced and graded, ZONE notices raised (R68), a FIRST request raised, and
the record published once with all of it (R44). -/
def State.closeBoard (s : State) (i : Fin 64) : State :=
  let b := s.boards[i].reduce.gradeCells s.shadow
  let t := (s.setBoard i b).forEach (b.zoneNotices s.shadow) State.raise
  (t.raiseRequest .first i).publish .lugTracker (.board i)

/-- The close of an empty lug: an override still attached is discarded with its notice (R12, R109). -/
def State.closeEmpty (s : State) (lug : Half) (o : Option Override) : State :=
  match o with
  | some o => s.raise (.ovrNoBoard lug o)
  | none => s

/-- R12: measurement of a lug closes; a lug already closed is left as it is. -/
def State.closeLug (s : State) (lug : Half) : State :=
  match s.entry lug with
  | none => s
  | some e =>
    if e.closed then s
    else
      match e.board with
      | some i => (s.setEntry lug (some { e with closed := true })).closeBoard i
      | none => (s.setEntry lug (some { e with closed := true, override := none })).closeEmpty lug e.override

/-- A board head among the nine heads. -/
def boardHead (h : Fin 8) : Fin 9 := ⟨h.val, by omega⟩

/-- R41: every board head that is enabled and not blocked has given its N_h slices to the board. -/
def State.readyForClose (s : State) (b : Board) : Bool :=
  (List.finRange 8).all fun h =>
    !(s.heads[boardHead h].enabled) || s.heads[boardHead h].blocked || decide (s.slicesPerLug h ≤ b.slicesOf h)

/-- R41: the test of every board in MEASURING; those that pass are closed in lug order, oldest first. -/
def State.earlyCloseAll (s : State) : State :=
  s.forEach (s.boardsByAge fun b => decide (b.state = .measuring) && s.readyForClose b)
    fun t i => t.closeLug t.boards[i].lug

end Sys2Proof.Machine
end

