-- ==== Sys2Proof/Machine/Ingest.lean ====
section
/-! DEFINITION. The ingest unit: frame arrivals and their checks (R20 to R26, R30), the lug window (R31 to R35), the
opening of a board (R11), slices and defects (R37 to R40). -/

namespace Sys2Proof.Machine

def HeadFlag.counter : HeadFlag → HeadCounter
  | .frame => .frameCount
  | .chk => .chkCount
  | .gap => .gapCount

def HeadFlag.stat : HeadFlag → Stat
  | .frame => .frameEvents
  | .chk => .chkEvents
  | .gap => .gapEvents

/-- R25: a check sets a flag of a head; a flag that was clear raises the notice. -/
def State.setHeadFlag (s : State) (h : Fin 9) (slot : Fin 16) (k : HeadFlag) : State :=
  let t := (s.setHead h ((s.heads[h].setFlag k).bump k.counter)).bump k.stat
  if s.heads[h].flag k then t else t.raise (.headError h.val k slot.val)

/-- R22, R23 and R26: a check that discards the frame; a board head that becomes blocked by it may close boards early. -/
def State.failFrame (s : State) (h : Fin 9) (slot : Fin 16) (k : HeadFlag) : State :=
  let t := s.setHeadFlag h slot k
  if s.heads[h].blocked || decide (h = 8) then t else t.earlyCloseAll

/-- Whether d stands before x in a defect list: by cell, then by kind (R39). -/
def Defect.before (d x : Defect) : Bool :=
  decide (d.cell < x.cell) || (decide (d.cell = x.cell) && decide (d.kind < x.kind))

def Defect.samePlace (d x : Defect) : Bool := decide (d.cell = x.cell) && decide (d.kind = x.kind)

/-- R39: merge a defect: the larger size where its cell and kind are listed, else a new entry at its place. -/
def mergeDefect (d : Defect) : List Defect → List Defect
  | [] => [d]
  | x :: xs =>
    if d.samePlace x then { x with size := max x.size d.size } :: xs
    else if d.before x then d :: x :: xs
    else x :: mergeDefect d xs

/-- R39: a defect of the board in a slot, refused when the list is full and does not hold its cell and kind. -/
def State.addDefect (s : State) (i : Fin 64) (d : Defect) : State :=
  let b := s.boards[i]
  if b.defects.any d.samePlace || decide (b.defects.length < 64) then
    s.setBoard i { b with defects := mergeDefect d b.defects }
  else
    let t := s.setBoard i { b with overflow := true }
    if b.overflow then t else t.raise (.defectOverflow b.lug i.val)

/-- R38: one defect entry of a frame of head h. -/
def State.takeDefect (s : State) (h : Fin 8) (i : Fin 64) (e : DefectEntry) : State :=
  if 5 < e.localCell ∨ 7 < e.kind then
    s.setBoard i { s.boards[i] with ignored := satAdd s.boards[i].ignored 1 }
  else s.addDefect i ⟨6 * h.val + e.localCell, e.kind, e.size⟩

/-- R37: one present cell entry, each value clamped to 60000. -/
def Accumulation.add (x : Accumulation) (e : CellEntry) : Accumulation :=
  if e.present then ⟨x.present + 1, x.t + min e.t 60000, x.w + min e.w 60000, x.n + min e.n 60000⟩ else x

/-- Steps 1 and 2 of R35: the slice index into the head's set, the six cell entries into its cells. -/
def Board.addSlice (b : Board) (h : Fin 8) (f : Frame) : Board :=
  { b with
    sliceSets := b.sliceSets.set h (b.sliceSets[h] ++ [f.index])
    acc := Vector.ofFn fun c : Fin 48 =>
      if cellHead c = h then b.acc[c].add (f.cells.getD (c.val % 6) ⟨false, 0, 0, 0⟩) else b.acc[c] }

/-- R35, R38, R40 and R41: the slice, its defects, then the early close, or the record as it now stands. -/
def State.addSlice (s : State) (h : Fin 8) (f : Frame) (i : Fin 64) : State :=
  let t := (s.setBoard i (s.boards[i].addSlice h f)).forEach (f.defects.take f.defectCount) fun t e => t.takeDefect h i e
  if t.readyForClose t.boards[i] then t.closeLug t.boards[i].lug else t.publish .ingest (.board i)

/-- R35: a frame for a lug whose board, in slot i, is MEASURING. -/
def State.offerSlice (s : State) (h : Fin 8) (f : Frame) (i : Fin 64) : State × FrameOutcome :=
  if s.slicesPerLug h ≤ f.index then (s, .droppedExtra)
  else if f.index ∈ s.boards[i].sliceSets[h] then (s, .droppedDuplicate)
  else (s.addSlice h f i, .taken)

/-- The lowest-numbered FREE board record (R11). -/
def State.freeBoard (s : State) : Option (Fin 64) :=
  (List.finRange 64).find? fun i => decide (s.boards[i].state = .free)

/-- The number of the outfeed run, 0 while there is none. -/
def State.outfeedNumber (s : State) : Half := (s.runs.outfeed.map fun r => s.runs.slots[r].number).getD 0

/-- R11: the board that opens in slot i on a lug. -/
def Board.opened (i : Fin 64) (lug run : Half) (bank : BankId) (o : Option Override) : Board :=
  { Board.blank with state := .measuring, slot := i, lug := lug, run := run, bank := bank, override := o }

/-- R11 and R34: open a board in slot i on the lug of entry e. -/
def State.openBoard (s : State) (e : LugEntry) (i : Fin 64) : State :=
  let run := s.outfeedNumber
  let bank := s.banks.active
  let t := (s.setBoard i (Board.opened i e.lug run bank e.override)).setEntry e.lug
    (some { e with board := some i, override := none })
  (((t.onRun run RunSlot.addOpened).publishRun run).publish .lugTracker (.board i)).setRefs bank (s.banks.refs bank + 1)

/-- Table 2-4, tests 5 to 7, for a lug whose entry is e. With no record FREE, which no run meets (R11), the frame is
skipped (log entry 18). -/
def State.settleEntry (s : State) (h : Fin 8) (f : Frame) (e : LugEntry) : State × FrameOutcome :=
  match e.board with
  | some i => s.offerSlice h f i
  | none =>
    if f.flag = false then (s, .skipped)
    else if s.lineState ≠ .run then (s, .skipped)
    else
      match s.freeBoard with
      | some i => (s.openBoard e i).offerSlice h f i
      | none => (s, .skipped)

/-- R32: the lug window. -/
def State.lugWindow (s : State) (h : Fin 8) (f : Frame) : State × FrameOutcome :=
  let d := s.distance f.number
  if 32768 ≤ d then (s, .droppedWrap)
  else if s.windowW < d ∨ (s.entry f.number).map LugEntry.closed = some true then (s, .droppedOld)
  else if s.running = false then (s, .skipped)
  else
    match s.entry f.number with
    | none => (s, .droppedOld)
    | some e => s.settleEntry h f e

/-- R30 and R31: a good frame of head h goes on, and its outcome is counted; the log unit counts that of a log frame
(log entry 21). -/
def State.settleGood (s : State) (h : Fin 9) (f : Frame) : State :=
  if s.heads[h].enabled = false then s.countFrame h .skipped
  else if hb : h.val < 8 then
    let r := s.lugWindow ⟨h.val, hb⟩ f
    r.1.countFrame h r.2
  else if s.running = false then s.countFrame h .skipped
  else s.takeLogFrame f

/-- R24: the sequence check of a good frame. -/
def State.checkSequence (s : State) (h : Fin 9) (slot : Fin 16) (f : Frame) : State :=
  let t := if s.heads[h].expected.any fun e => decide (e ≠ f.seq) then s.setHeadFlag h slot .gap else s
  t.setHead h { t.heads[h] with expected := some (f.seq + 1) }

/-- R22: the form check; `written` is the slot's four write marks. -/
def Frame.formed (f : Frame) (h : Fin 9) (written : BitVec 4) : Bool :=
  decide (written = 0xF) && decide (f.marker = 0x7E5A1C3B) && decide (f.head = h.val)
    && decide (f.kind = if h = 8 then 2 else 1)

/-- R21 and R26: the checks of an arrival and what follows them. -/
def State.settleArrival (s : State) (h : Fin 9) (slot : Fin 16) (f : Frame) (written : BitVec 4) : State :=
  if f.formed h written = false then s.failFrame h slot .frame
  else if f.checksum ≠ f.sum then s.failFrame h slot .chk
  else if s.heads[h].blocked then s.countFrame h .skipped
  else (s.checkSequence h slot f).settleGood h f

/-- R20 and R21: an arrival in a slot of head h: the slot's marks cleared, the frame settled, and the head's record
published once with all the arrival changed in it (R28, log entry 11). That record comes after the board record that
R40 publishes: the spec gives the ingest unit's publications of one arrival no order, and R157 keeps the order made
(the model's choice, log entry 20). -/
def State.frameArrival (s : State) (h : Fin 9) (slot : Fin 16) : State :=
  let f := readFrame s.shadow (frameBase h slot)
  let written := s.heads[h].marks[slot]
  let t := s.setHead h { s.heads[h] with marks := s.heads[h].marks.set slot 0 }
  (t.settleArrival h slot f written).publish .ingest (.head h)

/-- R20: a captured write into block k of a slot marks it. -/
def State.markBlock (s : State) (h : Fin 9) (slot : Fin 16) (k : Fin 4) : State :=
  s.setHead h
    { s.heads[h] with marks := s.heads[h].marks.set slot (s.heads[h].marks[slot] ||| BitVec.ofNat 4 (2 ^ k.val)) }

end Sys2Proof.Machine
end

