-- ==== Sys2Proof/Machine/Commands.lean ====
section
/-! DEFINITION. The command unit: what each of the twelve commands does and answers (Table 10-2). -/

namespace Sys2Proof.Machine

/-- The answer codes of chapter 12.4. -/
inductive CommandCode where
  | ok | wrongState | range | badConfig | badTable | bankHeld | switchPending | runFull | noNextRun | unknown
  deriving DecidableEq, Repr

def CommandCode.code : CommandCode → Byte
  | .ok => 1
  | .wrongState => 2
  | .range => 3
  | .badConfig => 4
  | .badTable => 5
  | .bankHeld => 6
  | .switchPending => 7
  | .runFull => 8
  | .noNextRun => 9
  | .unknown => 10

/-- An answer with its detail: `item` at 14H, `index` (an index, a run number or a lug) at 16H (Table 12-3). -/
structure CommandAnswer where
  code : CommandCode
  item : Nat
  index : Nat
  deriving DecidableEq, Repr

/-- Bytes 10H to 17H of an answered command entry (Table 12-3). -/
def CommandAnswer.bytes (x : CommandAnswer) (lc : Half) : List Byte :=
  [x.code.code, 0] ++ leBytes 2 lc.toNat ++ [BitVec.ofNat 8 x.item, 0] ++ leBytes 2 x.index

/-- An answer whose detail is 0. -/
def plainAnswer (c : CommandCode) : CommandAnswer := ⟨c, 0, 0⟩

/-- A bin record at START_LINE: its capacity and alternate fixed, its state reassessed unless HOLD (R132). -/
def Bin.fixed (x : Bin) (capacity alternate : Nat) : Bin :=
  { x with
    capacity := capacity
    alternate := alternate
    state :=
      if x.state = .hold then .hold else if capacity ≤ x.count.toNat then .full else .opened }

/-- R132 for bin i + 1; a record that did not change is not published. START_LINE takes the bins in ascending order, which
is the order of their publications (the model's choice, log entry 20). -/
def State.fixBin (s : State) (c : LineConfig) (i : Fin 40) : State :=
  let n : Fin 41 := ⟨i.val + 1, by omega⟩
  let y := s.bins[n].fixed c.capacity[i] c.alternate[i]
  if y = s.bins[n] then s else (s.setBin n y).publish .output (.bin n)

/-- Whether no run slot is in use (R3). -/
def RunUnit.noneInUse (x : RunUnit) : Bool := (List.finRange 8).all fun r => decide (x.slots[r].state = .free)

/-- R3 and R58: START_LINE opens a run, in slot 0, when no slot is in use. -/
def State.openFirstRun (s : State) : State := if s.runs.noneInUse then s.openRun 0 else s

/-- R3: the effect of an accepted START_LINE. -/
def State.start (s : State) : State :=
  let c := readConfig s.shadow
  let t : State := { s with config := some c, lugLine := Vector.replicate 64 none, lineState := .run }
  ((t.openFirstRun).forEach (List.finRange 40) fun u i => u.fixBin c i).publish .lugTracker .status

/-- R2. -/
def State.startLine (s : State) : State × CommandAnswer :=
  if s.lineState ≠ .idle then (s, plainAnswer .wrongState)
  else
    match configCheck s.shadow with
    | some (item, index) => (s, ⟨.badConfig, item, index⟩)
    | none =>
      match bankCheck s.shadow s.banks.active with
      | some (item, index) => (s, ⟨.badTable, item, index⟩)
      | none => (s.start, plainAnswer .ok)

/-- R4. -/
def State.drainLine (s : State) : State × CommandAnswer :=
  if s.lineState ≠ .run then (s, plainAnswer .wrongState)
  else (((s.setLineState .drain).publish .lugTracker .status).drainIfDone, plainAnswer .ok)

/-- R17: the loss of the board in a slot. Its credit serves no waiter, and its bank is not released yet (R91, R175). -/
def State.loseBoard (s : State) (i : Fin 64) : State :=
  let t := s.dropRequest i
  let u := ((t.setBoard i { t.boards[i] with state := .free }).publish .lugTracker (.board i)).leaveRun
    s.boards[i].run RunSlot.addLost
  u.setRefs s.boards[i].bank (u.banks.refs s.boards[i].bank - 1)

/-- The slots of the boards in use, in ascending order. -/
def State.slotsInUse (s : State) : List (Fin 64) := (List.finRange 64).filter fun i => s.boards[i].inUse

/-- The lug of the last board that a stop loses from a bank (R175). -/
def State.lastLost (s : State) (k : BankId) : Half :=
  ((s.slotsInUse.filter fun i => decide (s.boards[i].bank = k)).getLast?.map fun i => s.boards[i].lug).getD 0

/-- Steps 4 to 7 of R6. -/
def State.enterIdleByStop (s : State) : State :=
  let t : State :=
    { s with
      held := []
      lugLine := Vector.replicate 64 none
      logUnit := { s.logUnit with openLog := none }
      lineState := .idle }
  ((t.publish .lugTracker .status).publish .tally .stats).raise (.lineIdle t.lc)

/-- R6: the effect of an accepted STOP_LINE. -/
def State.stop (s : State) : State :=
  let t := (s.forEach s.slotsInUse State.loseBoard).setSolver Solver.atReset
  let u := t.forEach [.a, .b] fun x k => x.releaseBank k (s.lastLost k)
  u.dropPendingSwitch.enterIdleByStop

/-- R6. -/
def State.stopLine (s : State) : State × CommandAnswer :=
  if s.running then (s.stop, plainAnswer .ok) else (s, plainAnswer .wrongState)

/-- The bank that argument 1 of BANK_SWITCH names: 0 A, 1 B (Table 10-2). -/
def bankOf (arg : Half) : BankId := if arg = 0 then .a else .b

/-- R171, when every test has passed. -/
def State.acceptSwitch (s : State) (k : BankId) (lug : Half) : State × CommandAnswer :=
  if s.running then
    ((s.setBanks { s.banks with pendingSwitch := some (k, lug) }).publish .command .status, ⟨.ok, 2, lug.toNat⟩)
  else (s.makeSwitch k s.lc, ⟨.ok, 1, 0⟩)

/-- Test 5 of R171: in RUN or DRAIN the lug is 1 to 255 ahead of LC. -/
def State.lugSuits (s : State) (lug : Half) : Bool :=
  !s.running || (decide (1 ≤ (lug - s.lc).toNat) && decide ((lug - s.lc).toNat ≤ 255))

/-- R171. -/
def State.bankSwitch (s : State) (bank lug : Half) : State × CommandAnswer :=
  let k := bankOf bank
  if 1 < bank.toNat then (s, plainAnswer .range)
  else if s.banks.state k = .active then (s, plainAnswer .range)
  else if s.banks.state k = .held then (s, plainAnswer .bankHeld)
  else if s.banks.pendingSwitch ≠ none then (s, plainAnswer .switchPending)
  else if s.lugSuits lug = false then (s, plainAnswer .range)
  else
    match bankCheck s.shadow k with
    | some (item, index) => (s, ⟨.badTable, item, index⟩)
    | none => s.acceptSwitch k lug

/-- Step 1 of R89: a solve in flight is restarted. -/
def State.restartInFlight (s : State) : State :=
  match s.solver.inFlight with
  | none => s
  | some v => (s.restartSolve v.slot).publish .lugTracker (.board v.slot)

/-- Step 2 of R89: the SOLVED boards whose plan uses a saw outside the mask are re-solved, oldest first. -/
def State.resolveLost (s : State) (mask : SawSet) : State :=
  s.forEach
    (s.boardsByAge fun b => decide (b.state = .solved) && b.plan.any fun p => !sawsWithin p.saws mask)
    fun t i => (t.resolveCause i).publish .lugTracker (.board i)

/-- R89: a mask that differs from the one in force. -/
def State.changeMask (s : State) (mask : SawSet) : State :=
  ((({ s with sawMask := mask } : State).publish .command .status).restartInFlight).resolveLost mask

/-- R89. -/
def State.setSawMask (s : State) (arg : Half) : State × CommandAnswer :=
  let mask : SawSet := arg.setWidth 13
  if 0x1FFF < arg.toNat then (s, plainAnswer .range)
  else if mask = s.sawMask then (s, plainAnswer .ok)
  else (s.changeMask mask, plainAnswer .ok)

/-- R29 for one head: its record is published if its enabled state changes. HEAD_ENABLE takes the heads in ascending
order, which is the order of their publications: R29 gives none (the model's choice, log entry 20). -/
def State.enableHead (s : State) (arg : Half) (h : Fin 9) : State :=
  if s.heads[h].enabled = arg.getLsbD h.val then s
  else (s.setHead h { s.heads[h] with enabled := arg.getLsbD h.val }).publish .ingest (.head h)

/-- Whether a mask disables a board head that is enabled (R29). -/
def State.disablesBoardHead (s : State) (arg : Half) : Bool :=
  (List.finRange 8).any fun h => s.heads[boardHead h].enabled && !arg.getLsbD h.val

/-- R29, the heads in ascending order (log entry 20), then the early close test of R41. -/
def State.headEnable (s : State) (arg : Half) : State × CommandAnswer :=
  if 0x1FF < arg.toNat then (s, plainAnswer .range)
  else
    let t := s.forEach (List.finRange 9) fun u h => u.enableHead arg h
    (if s.disablesBoardHead arg then t.earlyCloseAll else t, plainAnswer .ok)

/-- R58. -/
def State.runNew (s : State) : State × CommandAnswer :=
  match s.runs.freeSlot with
  | none => (s, plainAnswer .runFull)
  | some r => (s.openRun r, ⟨.ok, 0, s.runs.nextNumber.toNat⟩)

/-- R59. -/
def State.runAdvance (s : State) : State × CommandAnswer :=
  match s.runs.advanceTo with
  | none => (s, plainAnswer .noNextRun)
  | some (r, q) => (s.advanceRun r q, ⟨.ok, 0, s.runs.slots[q].number.toNat⟩)

/-- R133. -/
def State.binHold (s : State) (arg : Half) : State × CommandAnswer :=
  if h : 1 ≤ arg.toNat ∧ arg.toNat ≤ 40 then
    let n : Fin 41 := ⟨arg.toNat, by omega⟩
    if s.bins[n].state = .hold then (s, plainAnswer .ok)
    else ((s.setBin n { s.bins[n] with state := .hold }).publish .output (.bin n), plainAnswer .ok)
  else (s, plainAnswer .range)

/-- R134. -/
def State.binEmpty (s : State) (arg : Half) : State × CommandAnswer :=
  if h : arg.toNat ≤ 40 then
    let n : Fin 41 := ⟨arg.toNat, by omega⟩
    ((s.setBin n { s.bins[n] with count := 0, state := .opened }).publish .output (.bin n), plainAnswer .ok)
  else (s, plainAnswer .range)

/-- The route that argument 2 of NOTICE_ROUTE names (R180). -/
def routeOf (arg : Half) : Route :=
  match arg.toNat with
  | 0 => .ring0
  | 1 => .ring1
  | _ => .none

/-- R180. -/
def State.noticeRoute (s : State) (kind route : Half) : State × CommandAnswer :=
  if 1 ≤ kind.toNat ∧ kind.toNat ≤ 18 ∧ route.toNat ≤ 2 then
    ({ s with routes := s.routes.set (routeIndex kind.toNat) (routeOf route) }, plainAnswer .ok)
  else (s, plainAnswer .range)

/-- R146. -/
def State.statsClear (s : State) : State × CommandAnswer :=
  (({ s with stats := Vector.replicate 24 0 } : State).publish .tally .stats, plainAnswer .ok)

/-- Step 2 of R166: the command to the block that owns it. -/
def State.doCommand (s : State) (c : Command) : State × CommandAnswer :=
  match c with
  | .startLine => s.startLine
  | .drainLine => s.drainLine
  | .stopLine => s.stopLine
  | .bankSwitch bank lug => s.bankSwitch bank lug
  | .sawMask saws => s.setSawMask saws
  | .headEnable heads => s.headEnable heads
  | .runNew => s.runNew
  | .runAdvance => s.runAdvance
  | .binHold bin => s.binHold bin
  | .binEmpty bin => s.binEmpty bin
  | .noticeRoute kind route => s.noticeRoute kind route
  | .statsClear => s.statsClear
  | .unknown => (s, plainAnswer .unknown)

/-- R166: the taking of one command entry, at an index of the ring. -/
def State.takeCommand (s : State) (i : Fin 64) (x : CommandEntry) : State :=
  let r := s.doCommand x.command
  r.1.writeAnswer .command (.commandAnswer i) (commandOffset i) (r.2.bytes s.lc)

end Sys2Proof.Machine
end

