-- ==== Sys2Proof/Machine/Overrides.lean ====
section
/-! DEFINITION. The override unit: the taking of one override entry (R101 to R114) and the move of a held override to
the lug that enters scan (R107). -/

namespace Sys2Proof.Machine

/-- Table 6-3. -/
inductive OverrideCode where
  | held | accepted | acceptedLate | notRunning | badField | tooEarly | heldFull | noBoard | outranked | tooLate
  deriving DecidableEq, Repr

/-- Codes 1 to 10, in the order of Table 6-3 (chapter 12.4). -/
def OverrideCode.code : OverrideCode → Byte
  | .held => 1
  | .accepted => 2
  | .acceptedLate => 3
  | .notRunning => 4
  | .badField => 5
  | .tooEarly => 6
  | .heldFull => 7
  | .noBoard => 8
  | .outranked => 9
  | .tooLate => 10

/-- The statistics counter of an answer (Table 6-3). -/
def OverrideCode.stat : OverrideCode → Stat
  | .held => .overridesAccepted
  | .accepted => .overridesAccepted
  | .acceptedLate => .overridesLate
  | .notRunning => .overridesRefused
  | .badField => .overridesRefused
  | .tooEarly => .overridesRefused
  | .heldFull => .overridesRefused
  | .noBoard => .overridesRefused
  | .outranked => .overridesRefused
  | .tooLate => .overridesRefused

/-- The answer of an entry: its code, the state seen (none for NONE) and the other station. -/
structure OverrideAnswer where
  code : OverrideCode
  seen : Option BoardState
  other : Option (Fin 8)
  deriving DecidableEq, Repr

/-- Bytes 10H to 17H of an answered override entry (Table 12-3). -/
def OverrideAnswer.bytes (x : OverrideAnswer) (lc : Half) : List Byte :=
  [x.code.code, (x.seen.map BoardState.code).getD 0] ++ leBytes 2 lc.toNat
    ++ [(x.other.map fun k => BitVec.ofNat 8 k.val).getD 0xFF, 0, 0, 0]

/-- The rank test of R105: an empty place passes, and so does a station whose rank is not above the holder's. -/
def State.rankPasses (s : State) (station : Fin 8) (holder : Option Override) : Bool :=
  match holder with
  | none => true
  | some o => decide (s.rank station ≤ s.rank o.station)

/-- R105: a replacement raises OVR_SUPERSEDED. -/
def State.supersede (s : State) (lug : Half) (old : Option Override) (new : Override) : State :=
  match old with
  | none => s
  | some o => s.raise (.ovrSuperseded lug o new)

/-- The override the held table keeps for a lug (R100). -/
def State.heldFor (s : State) (lug : Half) : Option Override :=
  (s.held.find? fun x => decide (x.lug = lug)).map HeldOverride.override

/-- How far a lug is ahead of LC. -/
def State.ahead (s : State) (lug : Half) : Nat := (lug - s.lc).toNat

/-- A new entry at its place in the order, soonest first (R100, R106). -/
def State.insertHeld (s : State) (x : HeldOverride) : List HeldOverride → List HeldOverride
  | [] => [x]
  | y :: ys => if s.ahead x.lug < s.ahead y.lug then x :: y :: ys else y :: s.insertHeld x ys

/-- The held table without a lug's entry. -/
def State.dropHeld (s : State) (lug : Half) : State :=
  { s with held := s.held.filter fun x => decide (x.lug ≠ lug) }

/-- The held table with the override of a lug replaced. -/
def State.replaceHeld (s : State) (lug : Half) (o : Override) : State :=
  { s with held := s.held.map fun x => if x.lug = lug then ⟨lug, o⟩ else x }

/-- The answer OUTRANKED names the holder's station (R105). -/
def outrankedBy (seen : Option BoardState) (holder : Option Override) : OverrideAnswer :=
  ⟨.outranked, seen, holder.map Override.station⟩

/-- R106: an entry for a future lug; `a` is what it asks for, none for CANCEL. -/
def State.holdOverride (s : State) (lug : Half) (station : Fin 8) (a : Option OverrideAction) : State × OverrideAnswer :=
  let old := s.heldFor lug
  if s.rankPasses station old = false then (s, outrankedBy none old)
  else
    match a, old with
    | none, _ => (s.dropHeld lug, ⟨.accepted, none, old.map Override.station⟩)
    | some x, some o =>
      ((s.replaceHeld lug ⟨station, x⟩).supersede lug old ⟨station, x⟩, ⟨.held, none, some o.station⟩)
    | some x, none =>
      if s.held.length < 8 then
        ({ s with held := s.insertHeld ⟨lug, ⟨station, x⟩⟩ s.held }, ⟨.held, none, none⟩)
      else (s, ⟨.heldFull, none, none⟩)

/-- R108: an entry for a lug in the line, not closed, with no board. -/
def State.overrideEntry (s : State) (e : LugEntry) (station : Fin 8) (a : Option OverrideAction) : State × OverrideAnswer :=
  if s.rankPasses station e.override = false then (s, outrankedBy none e.override)
  else
    match a with
    | none =>
      (s.setEntry e.lug (some { e with override := none }), ⟨.accepted, none, e.override.map Override.station⟩)
    | some x =>
      ((s.setEntry e.lug (some { e with override := some ⟨station, x⟩ })).supersede e.lug e.override ⟨station, x⟩,
        ⟨.held, none, e.override.map Override.station⟩)

/-- The board record's attached override changed, with the notice of a replacement. -/
def State.attach (s : State) (i : Fin 64) (lug : Half) (station : Fin 8) (a : Option OverrideAction) : State :=
  match a with
  | none => s.setBoard i { s.boards[i] with override := none }
  | some x =>
    (s.setBoard i { s.boards[i] with override := some ⟨station, x⟩ }).supersede lug s.boards[i].override ⟨station, x⟩

/-- R110 and R111: an entry for a board before commit. On a MEASURING board the RESOLVE cause has no effect
(Table 5-3). -/
def State.overrideBoard (s : State) (i : Fin 64) (lug : Half) (station : Fin 8) (a : Option OverrideAction) :
    State × OverrideAnswer :=
  let old := s.boards[i].override
  let seen := some s.boards[i].state
  if s.rankPasses station old = false then (s, outrankedBy seen old)
  else if a = none ∧ old = none then (s, ⟨.accepted, seen, none⟩)
  else
    (((s.attach i lug station a).resolveCause i).publish .lugTracker (.board i),
      ⟨.accepted, seen, old.map Override.station⟩)

/-- R112 and R126: a GRADE or REMAN entry for a COMMITTED board. -/
def State.overrideLate (s : State) (i : Fin 64) (lug : Half) (station : Fin 8) (x : OverrideAction) :
    State × OverrideAnswer :=
  let old := s.boards[i].override
  let seen := some s.boards[i].state
  if s.rankPasses station old = false then (s, outrankedBy seen old)
  else
    (((s.attach i lug station (some x)).reviseLate i x).publish .lugTracker (.board i),
      ⟨.acceptedLate, seen, old.map Override.station⟩)

/-- R112: an entry for a COMMITTED board, by its kind. -/
def State.overrideCommitted (s : State) (i : Fin 64) (lug : Half) (station : Fin 8) (a : Option OverrideAction) :
    State × OverrideAnswer :=
  match a with
  | none => (s, ⟨.tooLate, some s.boards[i].state, none⟩)
  | some (.trim _ _) => (s, ⟨.tooLate, some s.boards[i].state, none⟩)
  | some (.grade g) => s.overrideLate i lug station (.grade g)
  | some .reman => s.overrideLate i lug station .reman

/-- Tests 5 to 9 of Table 6-4, for a lug whose entry is e. -/
def State.overrideInLine (s : State) (e : LugEntry) (station : Fin 8) (a : Option OverrideAction) :
    State × OverrideAnswer :=
  match e.board with
  | some i =>
    if s.boards[i].state = .committed then s.overrideCommitted i e.lug station a
    else s.overrideBoard i e.lug station a
  | none => if e.closed then (s, ⟨.noBoard, none, none⟩) else s.overrideEntry e station a

/-- Table 6-4: the stage of the lug and what follows from it. -/
def State.overrideStage (s : State) (lug : Half) (station : Fin 8) (a : Option OverrideAction) : State × OverrideAnswer :=
  let d := s.distance lug
  if 65504 ≤ d then s.holdOverride lug station a
  else if 32768 ≤ d then (s, ⟨.tooEarly, none, none⟩)
  else if s.sortS ≤ d then (s, ⟨.tooLate, none, none⟩)
  else
    match s.entry lug with
    | none => (s, ⟨.tooLate, none, none⟩)
    | some e => s.overrideInLine e station a

/-- R103: the first two tests, then the stage. -/
def State.decideOverride (s : State) (x : OverrideEntry) : State × OverrideAnswer :=
  if s.running = false then (s, ⟨.notRunning, none, none⟩)
  else
    match x.request with
    | none => (s, ⟨.badField, none, none⟩)
    | some (station, a) => s.overrideStage x.lug station a

/-- R102: the taking of one entry, at an index of the ring. -/
def State.takeOverride (s : State) (i : Fin 64) (x : OverrideEntry) : State :=
  let r := s.decideOverride x
  (r.1.bump r.2.code.stat).writeAnswer .override (.overrideAnswer i) (overrideOffset i) (r.2.bytes s.lc)

/-- R107: the held override of a lug moves into its new lug entry. -/
def State.moveHeld (s : State) (n : Half) : State :=
  match s.heldFor n, s.entry n with
  | some o, some e => (s.dropHeld n).setEntry n (some { e with override := some o })
  | _, _ => s

end Sys2Proof.Machine
end

