-- ==== Sys2Proof/Machine/Rings.lean ====
section
/-! DEFINITION. The two master-written rings (R159, R160, R164) and the rows of the table that give one command or one
override entry. -/

namespace Sys2Proof.Machine

/-- The command ring and the override ring. -/
inductive Ring where
  | command | override
  deriving DecidableEq, Repr

/-- Subject of RING_ERROR (R159). -/
def Ring.code : Ring → Nat
  | .command => 0
  | .override => 1

def Ring.owner : Ring → FunctionalBlock
  | .command => .command
  | .override => .override

/-- Offset of the producer count word (Table 9-1). -/
def Ring.countOffset : Ring → Nat
  | .command => 0x1800
  | .override => 0x2800

/-- Offset of entry i (Table 12-1). -/
def Ring.entryOffset : Ring → Fin 64 → Nat
  | .command => commandOffset
  | .override => overrideOffset

def State.counts (s : State) : Ring → RingCounts
  | .command => s.cmdRing
  | .override => s.ovrRing

def State.setCounts (s : State) (ring : Ring) (x : RingCounts) : State :=
  match ring with
  | .command => { s with cmdRing := x }
  | .override => { s with ovrRing := x }

/-- Entry number p lies at index p mod 64 (R160). -/
def entryIndex (p : Half) : Fin 64 := Fin.ofNat 64 p.toNat

/-- What an entry of either ring holds, as read from the shadow. -/
inductive RingEntry where
  | command (x : CommandEntry)
  | override (x : OverrideEntry)
  deriving DecidableEq, Repr

def Ring.read (ring : Ring) (m : List Host.Cell) (i : Fin 64) : RingEntry :=
  match ring with
  | .command => .command (readCommandEntry m i)
  | .override => .override (readOverrideEntry m i)

/-- The taking of one entry by the ring's owner (R102, R166). -/
def State.takeEntry (s : State) (i : Fin 64) (x : RingEntry) : State :=
  match x with
  | .command x => s.takeCommand i x
  | .override x => s.takeOverride i x

/-- The entries of an arrival of n, oldest first, each as the shadow holds it at the arrival (R160). -/
def State.arriving (s : State) (ring : Ring) (n : Nat) : List (Fin 64 × RingEntry) :=
  (List.range n).map fun k =>
    let i := entryIndex ((s.counts ring).consumer + BitVec.ofNat 16 k)
    (i, ring.read s.shadow i)

/-- R159 and R160: a valid count c out of INIT. -/
def State.takeArrival (s : State) (ring : Ring) (c : Half) : State :=
  let n := (c - (s.counts ring).consumer).toNat
  let t := s.setCounts ring { s.counts ring with producer := c, pendingCount := none }
  if n = 0 then t
  else
    let u := t.forEach (s.arriving ring n) fun x e => x.takeEntry e.1 e.2
    (u.setCounts ring { u.counts ring with consumer := c }).publish ring.owner .status

/-- R164: a valid count in INIT. -/
def State.deferArrival (s : State) (ring : Ring) (c : Half) : State :=
  s.setCounts ring
    { s.counts ring with pendingCount := if c = (s.counts ring).consumer then none else some c }

/-- The count the shadow of a ring's count word holds (R150). -/
def State.countWord (s : State) (ring : Ring) : Half := BitVec.ofNat 16 (field16 s.shadow ring.countOffset)

/-- R159: a producer count arrival. -/
def State.countArrival (s : State) (ring : Ring) : State :=
  let c := s.countWord ring
  if 64 < (c - (s.counts ring).consumer).toNat then
    (s.raise (.ringError ring.code c (s.counts ring).consumer)).bump .ringErrors
  else if s.lineState = .init then s.deferArrival ring c
  else s.takeArrival ring c

/-- R164: the pending count of a ring is taken when INIT ends. -/
def State.takePending (s : State) (ring : Ring) : State :=
  match (s.counts ring).pendingCount with
  | none => s
  | some c => s.takeArrival ring c

/-- A master's write of bytes, all enabled, that the part captures, forwards and sees answered good. -/
def State.masterWrite (s : State) (offset : Nat) (bytes : List Byte) : State :=
  let t := s.setShadow (writeBytes s.shadow (placedAt offset bytes))
  (t.emit (.forwardWrite (s.path.arenaBase + offset) (bytes.map fun x => (x, true)))).emit (.masterAnswer true [])

/-- The number of the next entry that a master places: after the entries that wait for the end of INIT. -/
def State.nextEntry (s : State) (ring : Ring) : Half :=
  ((s.counts ring).pendingCount).getD (s.counts ring).consumer

/-- One entry placed at the next index and announced: its first 16 bytes, then the producer count (9.6.2, log entry 8).
While RESET_N is low no transaction is accepted (R148). -/
def State.giveEntry (s : State) (ring : Ring) (bytes : List Byte) : State :=
  if s.resetLow then s
  else
    let p := s.nextEntry ring
    ((s.masterWrite (ring.entryOffset (entryIndex p)) bytes).masterWrite ring.countOffset
      (leBytes 2 (p + 1).toNat)).countArrival ring

def State.giveCommand (s : State) (code : Byte) (arg1 arg2 : Half) : State :=
  s.giveEntry .command (CommandEntry.bytes ⟨code, arg1, arg2⟩)

def State.giveOverride (s : State) (x : OverrideEntry) : State := s.giveEntry .override x.bytes

/-- START_LINE (R2, R3). -/
def execStartLine (s : State) : Host.Outcome State Fault Refusal := .next (s.beginEvent.giveCommand 1 0 0)

/-- DRAIN_LINE (R4, R5). -/
def execDrainLine (s : State) : Host.Outcome State Fault Refusal := .next (s.beginEvent.giveCommand 2 0 0)

/-- STOP_LINE (R6). -/
def execStopLine (s : State) : Host.Outcome State Fault Refusal := .next (s.beginEvent.giveCommand 3 0 0)

/-- BANK_SWITCH (R171). -/
def execBankSwitch (bank lug : Half) (s : State) : Host.Outcome State Fault Refusal :=
  .next (s.beginEvent.giveCommand 4 bank lug)

/-- SAW_MASK (R89). -/
def execSawMask (saws : Half) (s : State) : Host.Outcome State Fault Refusal :=
  .next (s.beginEvent.giveCommand 5 saws 0)

/-- HEAD_ENABLE (R29). -/
def execHeadEnable (heads : Half) (s : State) : Host.Outcome State Fault Refusal :=
  .next (s.beginEvent.giveCommand 6 heads 0)

/-- RUN_NEW (R58). -/
def execRunNew (s : State) : Host.Outcome State Fault Refusal := .next (s.beginEvent.giveCommand 7 0 0)

/-- RUN_ADVANCE (R59). -/
def execRunAdvance (s : State) : Host.Outcome State Fault Refusal := .next (s.beginEvent.giveCommand 8 0 0)

/-- BIN_HOLD (R133). -/
def execBinHold (bin : Half) (s : State) : Host.Outcome State Fault Refusal :=
  .next (s.beginEvent.giveCommand 9 bin 0)

/-- BIN_EMPTY (R134). -/
def execBinEmpty (bin : Half) (s : State) : Host.Outcome State Fault Refusal :=
  .next (s.beginEvent.giveCommand 10 bin 0)

/-- NOTICE_ROUTE (R180). -/
def execNoticeRoute (kind route : Half) (s : State) : Host.Outcome State Fault Refusal :=
  .next (s.beginEvent.giveCommand 11 kind route)

/-- STATS_CLEAR (R146). -/
def execStatsClear (s : State) : Host.Outcome State Fault Refusal := .next (s.beginEvent.giveCommand 12 0 0)

/-- COMMAND_UNKNOWN (R166). -/
def execCommandUnknown (code : Byte) (s : State) : Host.Outcome State Fault Refusal :=
  .next (s.beginEvent.giveCommand code 0 0)

/-- OVERRIDE_GRADE (R102 to R114). -/
def execOverrideGrade (station : Byte) (lug : Half) (grade : Byte) (s : State) : Host.Outcome State Fault Refusal :=
  .next (s.beginEvent.giveOverride ⟨station, 1, lug, grade, 0, 0⟩)

/-- OVERRIDE_TRIM (R102 to R115). -/
def execOverrideTrim (station : Byte) (lug : Half) (a b : Byte) (s : State) : Host.Outcome State Fault Refusal :=
  .next (s.beginEvent.giveOverride ⟨station, 2, lug, 0, a, b⟩)

/-- OVERRIDE_REMAN (R102 to R114). -/
def execOverrideReman (station : Byte) (lug : Half) (s : State) : Host.Outcome State Fault Refusal :=
  .next (s.beginEvent.giveOverride ⟨station, 3, lug, 0, 0, 0⟩)

/-- OVERRIDE_CANCEL (R105). -/
def execOverrideCancel (station : Byte) (lug : Half) (s : State) : Host.Outcome State Fault Refusal :=
  .next (s.beginEvent.giveOverride ⟨station, 4, lug, 0, 0, 0⟩)

/-- OVERRIDE_UNKNOWN_KIND (R103). -/
def execOverrideUnknownKind (kind station : Byte) (lug : Half) (s : State) : Host.Outcome State Fault Refusal :=
  .next (s.beginEvent.giveOverride ⟨station, kind, lug, 0, 0, 0⟩)

end Sys2Proof.Machine
end

