-- ==== Sys2Proof/Machine/Transit.lean ====
section
/-! DEFINITION. Publications in transit (R155 to R157), the answers to injected writes (R155, R156, R182) and the
initial publication with its end (R1, R162, R163, R164). -/

namespace Sys2Proof.Machine

/-- The records that a publication writes. -/
def PubTarget.records : PubTarget → List Record
  | .record r => [r]
  | .initial u => u.records
  | .commandAnswer _ => []
  | .overrideAnswer _ => []

/-- Whether publication q waits for the earlier publication p: they write one record or one entry (R155), or one block
made both for one event (R157). -/
def Publication.waitsFor (q p : Publication) : Bool :=
  decide (q.target = p.target) || q.target.records.any (fun r => decide (r ∈ p.target.records))
    || (decide (q.owner = p.owner) && decide (q.event = p.event))

/-- The places of the publications in transit, given those before them: a publication is in transit from the issue of
its first write, which is at once when it waits for no earlier one (log entry 10). -/
def transitFrom : List Publication → Nat → List Publication → List Nat
  | _, _, [] => []
  | before, k, p :: ps =>
    if before.any p.waitsFor then transitFrom (p :: before) (k + 1) ps else k :: transitFrom (p :: before) (k + 1) ps

def Path.inTransit (x : Path) : List Nat := transitFrom [] 0 x.publications

/-- The publications in transit. -/
def Path.transiting (x : Path) : List Publication := x.inTransit.filterMap fun k => x.publications[k]?

/-- The publication that writes a unit of the initial publication, with the content its owners hold (R162). -/
def State.unitPublication (s : State) (u : InitUnit) : Publication :=
  ⟨.initial u, .path, s.path.event, 0, s.unitWrites u⟩

/-- Begin the next unit of the initial publication (R162). -/
def State.beginUnit (s : State) (u : InitUnit) (rest : List InitUnit) : State :=
  let t := s.setPath { s.path with initialRest := rest }
  t.enqueue (t.unitPublication u)

/-- The end of the initial publication (R1, R145, R162, R164): the line is IDLE, the status block and the statistics are
republished, and the pending counts are taken, the override ring's first (log entry 14). -/
def State.endInit (s : State) : State :=
  (((((s.setLineState .idle).publish .lugTracker .status).publish .tally .stats).takePending .override).takePending
    .command)

/-- After a unit's last write: the next unit, or the end. -/
def State.continueInit (s : State) : State :=
  match s.path.initialRest with
  | [] => s.endInit
  | u :: rest => s.beginUnit u rest

/-- R182: memory has answered a write of a record at a stamp; where it is the slot write that carries a notice its ring
holds, the ring's attention output is high. -/
def State.answerSlot (s : State) (stamp : Half) (r : Record) : State :=
  match r with
  | .notice ring slot =>
    if s.notices[ring].holds slot && decide (s.stamp r = stamp) then
      s.setNotices ring { s.notices[ring] with attn := true }
    else s
  | _ => s

/-- The records of more than one block (R155). -/
def longRecords : List Record :=
  [.status] ++ (List.finRange 64).map .board ++ (List.finRange 8).map .run ++ [.stats] ++ (List.finRange 16).map .log

/-- The record of more than one block whose header block holds a plain offset (R156). -/
def headerRecord (o : Nat) : Option Record := longRecords.find? fun r => decide (r.offset = o / 64 * 64)

/-- The record whose header block a read asks for, if it is one of more than one block. -/
def State.readsHeader (s : State) (r : BusRead) : Option Record :=
  match s.offsetOf r.addr with
  | none => none
  | some (o, _) => headerRecord o

/-- The address memory sees: an arena read goes to the plain half (R149). -/
def State.memoryAddress (s : State) (addr : Nat) : Nat :=
  match s.offsetOf addr with
  | none => addr
  | some (o, _) => s.path.arenaBase + o

/-- Forward a read (R148): it is open until memory answers it. -/
def State.forwardRead (s : State) (r : BusRead) : State :=
  (s.setPath { s.path with openReads := s.path.openReads ++ [r] }).emit
    (.forwardRead (s.memoryAddress r.addr) r.enables)

/-- R156: forward the reads held for the given records. -/
def State.releaseReads (s : State) (records : List Record) : State :=
  let held := fun (r : BusRead) => (s.readsHeader r).any fun x => decide (x ∈ records)
  let t := s.setPath { s.path with heldReads := s.path.heldReads.filter fun r => !held r }
  t.forEach (s.path.heldReads.filter held) State.forwardRead

/-- The initial publication goes on after a publication that was one of its units. -/
def State.afterInitial (s : State) (x : PubTarget) : State :=
  match x with
  | .initial _ => s.continueInit
  | .record _ => s
  | .commandAnswer _ => s
  | .overrideAnswer _ => s

/-- Offset of the answer bytes that a publication writes into a ring entry (R160). -/
def PubTarget.answerOffset : PubTarget → Option Nat
  | .commandAnswer i => some (commandOffset i + 0x10)
  | .overrideAnswer i => some (overrideOffset i + 0x10)
  | .record _ => none
  | .initial _ => none

/-- R154 and R160: an answer write that waited is ordered when it is issued, after every write to its entry accepted
before, so its bytes then stand in the shadow as they do in memory (log entry 10). -/
def State.copyAnswer (s : State) (q : Publication) : State :=
  match q.target.answerOffset, q.writes with
  | some o, x :: _ => s.setShadow (writeBytes s.shadow (placedAt o (x.bytes.take 8)))
  | _, _ => s

/-- The answer writes that waited for publication p and wait for nothing now are issued. -/
def State.issueAnswers (s : State) (p : Publication) : State :=
  s.forEach (s.path.transiting.filter fun q => q.waitsFor p) State.copyAnswer

/-- What memory's answer to a publication's last write brings: the reads held for its records go on (R156), and a notice
slot is answered (R182). -/
def State.retire (s : State) (p : Publication) : State :=
  (s.releaseReads p.target.records).forEach p.target.records fun u r => u.answerSlot p.stamp r

/-- Memory has answered the last write of the publication in place k. -/
def State.finishPublication (s : State) (k : Nat) (p : Publication) : State :=
  let t := (s.setPath { s.path with publications := s.path.publications.eraseIdx k }).retire p
  (t.issueAnswers p).afterInitial p.target

/-- R155: memory answers the write that the publication in place k has issued; the next write follows it. -/
def State.answerWrite (s : State) (k : Nat) (p : Publication) : State :=
  match p.writes with
  | _ :: x :: rest =>
    s.setPath { s.path with publications := s.path.publications.set k { p with writes := x :: rest } }
  | _ => s.finishPublication k p

/-- Memory answers the injected write of the publication that is in place `index` among those in transit; with none
there, no write is answered (log entry 15). A good answer and an error act alike (R155). -/
def State.injectedAnswer (s : State) (index : Nat) : State :=
  match s.path.inTransit[index]? with
  | none => s
  | some k =>
    match s.path.publications[k]? with
    | none => s
    | some p => s.answerWrite k p

/-- INJECTED_WRITE_ANSWER (R155, R156, R182). -/
def execInjectedWriteAnswer (index : Nat) (_good : Bool) (s : State) : Host.Outcome State Fault Refusal :=
  .next (s.beginEvent.injectedAnswer index)

/-- RESET_N goes low (R161): every block at its reset values; what the part had accepted is left unanswered and its own
writes are dropped (R148). The commands still to come stay in the queue, and the model's own event number goes on
(log entry 5). -/
def State.enterReset (s : State) : State :=
  { State.reset with pending := s.pending, path := { Path.atReset with event := s.path.event } }

/-- RESET. -/
def execReset (s : State) : Host.Outcome State Fault Refusal := .next s.beginEvent.enterReset

/-- The size of the arena: 8 MiB (R149). -/
def arenaSize : Nat := 2 * halfArena

/-- R149 and R162: RESET_N rises: the arena base is sampled and the initial publication begins. With RESET_N high
already there is no release (log entry 15). -/
def State.release (s : State) (arenaSel : BitVec 6) : State :=
  if s.resetLow then
    let t : State :=
      { s with resetLow := false, path := { s.path with arenaBase := arenaSel.toNat * arenaSize, initialRest := initialUnits } }
    t.continueInit
  else s

/-- RESET_RELEASE. -/
def execResetRelease (arenaSel : BitVec 6) (s : State) : Host.Outcome State Fault Refusal :=
  .next (s.beginEvent.release arenaSel)

/-- The publications that are not initial writes. -/
def isInitial (p : Publication) : Bool :=
  match p.target with
  | .initial _ => true
  | .record _ => false
  | .commandAnswer _ => false
  | .overrideAnswer _ => false

/-- The records whose initial write has not been answered. -/
def State.initialRecords (s : State) : List Record :=
  (s.path.publications.filter isInitial).flatMap (fun p => p.target.records)
    ++ s.path.initialRest.flatMap InitUnit.records

/-- Make the writes of an initial publication in order, memory answering each, with what the last answer brings
(R155, R162). -/
def State.writeOut (s : State) (xs : List InjectedWrite) (p : Publication) : State :=
  (s.forEach xs fun u x => u.emit (.injected x)).retire p

/-- R162: the units begun: the write that memory has yet to answer was issued before, and the others follow it. -/
def State.writeBegun (s : State) : State :=
  let t := s.setPath { s.path with publications := s.path.publications.filter fun p => !isInitial p }
  t.forEach (s.path.publications.filter isInitial) fun u p => u.writeOut p.writes.tail p

/-- R162: a unit not begun, with the content its owners hold at this moment. -/
def State.writeUnit (s : State) (u : InitUnit) : State :=
  let t := s.setPath { s.path with initialRest := s.path.initialRest.tail }
  t.writeOut (t.unitWrites u) (t.unitPublication u)

/-- R162: every initial write not yet made is made, in ascending offset order, and memory answers each; then INIT ends.
Out of INIT there is no such event (log entry 15). -/
def State.completeInit (s : State) : State :=
  if s.resetLow = false ∧ s.lineState = .init then
    (s.writeBegun.forEach s.path.initialRest State.writeUnit).endInit
  else s

/-- INITIAL_PUBLICATION_END. -/
def execInitialPublicationEnd (s : State) : Host.Outcome State Fault Refusal := .next s.beginEvent.completeInit

end Sys2Proof.Machine
end

