-- ==== Sys2Proof/Machine/Consume.lean ====
section
/-! DEFINITION. Upstream reads (R148, R149, R156), the consuming reads (R27, R62, R125, R158, R181) and the order of
guarded writes among them (R154). -/

namespace Sys2Proof.Machine

/-- Whether the initial write of a record has not been answered yet (R27, R181; log entry 13). -/
def State.beforeInitialWrite (s : State) (r : Record) : Bool := decide (r ∈ s.initialRecords)

/-- R27: the returned header of a head status record. -/
def State.consumeHead (s : State) (h : Fin 9) (header : List Byte) : State :=
  let x := s.heads[h].clearShown (headerByte header 2)
  if s.beforeInitialWrite (.head h) then s
  else if x.flagByte = s.heads[h].flagByte then s
  else (s.setHead h x).publish .ingest (.head h)

/-- R62: free a CLOSED run: its slot FREE, the run out of the queue, the record republished. -/
def State.freeRun (s : State) (r : Fin 8) : State :=
  ({ s with
      runs :=
        { s.runs with
          slots := s.runs.slots.set r { s.runs.slots[r] with state := .free }
          queue := s.runs.queue.erase r } } : State).publish .log (.run r)

/-- R62: the returned header of a run record: run number at 00H, run state at 02H (Table 12-7). -/
def State.consumeRun (s : State) (r : Fin 8) (header : List Byte) : State :=
  let x := s.runs.slots[r]
  if headerByte header 2 = 3 ∧ x.state = .closed ∧ x.number = headerHalf header 0 then s.freeRun r else s

/-- R181 and R182: the oldest notice leaves its ring; the removal that empties the ring lowers its attention output. -/
def State.removeOldest (s : State) (ring : Fin 2) : State :=
  let x := s.notices[ring]
  (s.setNotices ring { x with held := x.held - 1, attn := x.attn && decide (1 < x.held) }).publish .notice .status

/-- R181: the returned header of a notice slot: kind at 00H, sequence at 02H. -/
def State.consumeNotice (s : State) (ring : Fin 2) (slot : Fin 32) (header : List Byte) : State :=
  let x := s.notices[ring]
  if s.beforeInitialWrite (.notice ring slot) then s
  else if 0 < x.held ∧ headerByte header 0 ≠ 0 ∧ slot = noticeSlot x.oldestSeq ∧ headerHalf header 2 = x.oldestSeq then
    s.removeOldest ring
  else s

/-- Hand a returned header word to the owner of its record (Table 9-3). -/
def State.handHeader (s : State) (r : Record) (header : List Byte) : State :=
  match r with
  | .head h => s.consumeHead h header
  | .run i => s.consumeRun i header
  | .trim i => s.consumeTrim i header
  | .sort i => s.consumeSort i header
  | .notice ring slot => s.consumeNotice ring slot header
  | .status => s
  | .board _ => s
  | .bin _ => s
  | .stats => s
  | .log _ => s

/-- The record with a consuming effect whose header word starts at a plain offset (Table 9-3, Table 12-1). -/
def consumingRecord (o : Nat) : Option Record :=
  match areaOf o with
  | some .headRecords => if o % 0x40 = 0 then some (.head (Fin.ofNat 9 ((o - 0x20000) / 0x40))) else none
  | some .runRecords => if o % 0x800 = 0 then some (.run (Fin.ofNat 8 ((o - 0x50000) / 0x800))) else none
  | some .trimRing => if o % 0x20 = 0 then some (.trim (Fin.ofNat 16 ((o - 0x40000) / 0x20))) else none
  | some .sortRing => if o % 0x20 = 0 then some (.sort (Fin.ofNat 16 ((o - 0x41000) / 0x20))) else none
  | some .noticeRings =>
    if o % 0x10 = 0 then
      some (.notice (Fin.ofNat 2 ((o - 0x70000) / 0x200)) (Fin.ofNat 32 ((o - 0x70000) / 0x10)))
    else none
  | _ => none

/-- The byte enables from place k hold for all 8 bytes of a header word (R158). -/
def coversWord (enables : List Bool) (k : Nat) : Bool := decide ((enables.drop k).take 8 = List.replicate 8 true)

/-- R158: the header words that a read covers, in ascending offset order, each with its 8 returned bytes; o is the plain
offset of the read's first byte. -/
def coveredHeaders (o : Nat) (enables : List Bool) (data : List Byte) : List (Record × List Byte) :=
  (List.range enables.length).filterMap fun k =>
    if coversWord enables k then (consumingRecord (o + k)).map fun r => (r, (data.drop k).take 8) else none

/-- Whether a read is a consuming read of a record of Table 9-3: it goes through the alias and covers a header word
(R158). -/
def State.consumes (s : State) (r : BusRead) : Bool :=
  match s.offsetOf r.addr with
  | some (o, true) =>
    (List.range r.enables.length).any fun k => coversWord r.enables k && (consumingRecord (o + k)).isSome
  | _ => false

/-- The block of 64 bytes that a read asks for, as memory sees it. -/
def State.readBlock (s : State) (r : BusRead) : Nat := s.memoryAddress r.addr / 64

/-- R154: the consuming reads of one block take effect in the order in which they were forwarded, and each takes effect
at its good answer (R158). That answer is due once no consuming read of the block forwarded before it is open (log entry
9). -/
def State.inTurn (s : State) (r : BusRead) : Bool :=
  !s.consumes r ||
    (s.path.openReads.takeWhile fun q => decide (q ≠ r)).all fun q =>
      !(s.consumes q && decide (s.readBlock q = s.readBlock r))

/-- R156: whether a read is held: it asks for the header block of a record of which a publication is in transit. -/
def State.holdsRead (s : State) (r : BusRead) : Bool :=
  match s.readsHeader r with
  | none => false
  | some x => s.path.transiting.any fun p => decide (x ∈ p.target.records)

/-- A read at its acceptance: held, or forwarded (R148, R156). -/
def State.acceptRead (s : State) (r : BusRead) : State :=
  if s.holdsRead r then s.setPath { s.path with heldReads := s.path.heldReads ++ [r] } else s.forwardRead r

/-- What a guarded write does (R152): it is answered good, counted and reported. -/
def State.takeGuard (s : State) (n : Notice) : State :=
  ((s.emit (.masterAnswer true [])).bump .guardDiscards).raise n

/-- The consuming reads of a block that are accepted and not answered. -/
def State.readsAhead (s : State) (block : Nat) : List BusRead :=
  (s.path.openReads ++ s.path.heldReads).filter fun q => s.consumes q && decide (s.readBlock q = block)

/-- R154: guards and consuming reads on one block take effect in the order of its traffic: a guarded write waits for the
consuming reads of its block accepted before it. Its answer to the master comes with its effect (log entry 9). -/
def State.orderGuard (s : State) (block : Nat) (n : Notice) : State :=
  match s.readsAhead block with
  | [] => s.takeGuard n
  | q :: qs => s.setPath { s.path with waitingGuards := s.path.waitingGuards ++ [⟨n, q :: qs⟩] }

/-- A guarded write that has one read less to wait for. -/
def WaitingGuard.pass (g : WaitingGuard) (r : BusRead) : WaitingGuard := { g with ahead := g.ahead.erase r }

/-- R154: after the answer to a read, the guarded writes that wait for no other read take effect, in the order in which
they were accepted. -/
def State.takeGuards (s : State) (r : BusRead) : State :=
  let gs := s.path.waitingGuards.map fun g => g.pass r
  let t := s.setPath { s.path with waitingGuards := gs.filter fun g => decide (g.ahead ≠ []) }
  t.forEach (gs.filter fun g => decide (g.ahead = [])) fun u g => u.takeGuard g.notice

/-- R158: a good answer to a read through the alias hands over the headers it covers, in ascending order. -/
def State.handCovered (s : State) (r : BusRead) (good : Bool) (data : List Byte) : State :=
  match s.offsetOf r.addr with
  | some (o, true) => if good then s.forEach (coveredHeaders o r.enables data) fun u x => u.handHeader x.1 x.2 else s
  | _ => s

/-- Memory answers a read that the part has forwarded: data and answer go back to the master (R148), its headers are handed
over, and then the guarded writes that waited for the read take effect (R154). A read that is not among those forwarded
and not yet answered, such as one accepted before a reset or one still held, has no answer, and a good answer to a
consuming read does not come before its turn (R154; log entries 9 and 15). -/
def State.answerRead (s : State) (r : BusRead) (good : Bool) (data : List Byte) : State :=
  if r ∈ s.path.openReads ∧ (good = true → s.inTurn r = true) then
    (((s.setPath { s.path with openReads := s.path.openReads.erase r }).emit (.masterAnswer good data)).handCovered
      r good data).takeGuards r
  else s

/-- An event of an upstream read. While RESET_N is low none is accepted or answered (R148). -/
def State.upstreamRead (s : State) (e : ReadEvent) : State :=
  if s.resetLow then s
  else
    match e with
    | .accept r => s.acceptRead r
    | .answer r good data => s.answerRead r good data

/-- HEAD_STATUS_CONSUMING_READ (R27). -/
def execHeadStatusConsumingRead (e : ReadEvent) (s : State) : Host.Outcome State Fault Refusal :=
  .next (s.beginEvent.upstreamRead e)

/-- RUN_RECORD_CONSUMING_READ (R62). -/
def execRunRecordConsumingRead (e : ReadEvent) (s : State) : Host.Outcome State Fault Refusal :=
  .next (s.beginEvent.upstreamRead e)

/-- TRIM_SORT_CONSUMING_READ (R125). -/
def execTrimSortConsumingRead (e : ReadEvent) (s : State) : Host.Outcome State Fault Refusal :=
  .next (s.beginEvent.upstreamRead e)

/-- NOTICE_CONSUMING_READ (R181). -/
def execNoticeConsumingRead (e : ReadEvent) (s : State) : Host.Outcome State Fault Refusal :=
  .next (s.beginEvent.upstreamRead e)

end Sys2Proof.Machine
end

