-- ==== Sys2Proof/Machine/LugLine.lean ====
section
/-! DEFINITION. The lug event (R7 to R10, R145). -/

namespace Sys2Proof.Machine

/-- The natural order of the tasks of a lug event. -/
def defaultTasks : List LugTask := [.enter, .close, .commit, .sort, .status, .statistics]

/-- Each task once, where it first stands and was not seen before. -/
def keepFirst : List LugTask → List LugTask → List LugTask
  | _, [] => []
  | seen, x :: xs => if x ∈ seen then keepFirst seen xs else x :: keepFirst (x :: seen) xs

/-- The lug at a distance from LC. -/
def State.lugAt (s : State) (d : Nat) : Half := s.lc - BitVec.ofNat 16 d

/-- The commit position, after the close of the same lug when C = W + 1 (R9). -/
def State.commitPosition (s : State) (lug : Half) : State :=
  if s.commitC = s.windowW + 1 then (s.closeLug lug).commitLug lug else s.commitLug lug

/-- One task of a lug event that made LC the new lug (R7 to R10, Table 1-7). -/
def State.lugTask (s : State) (x : LugTask) : State :=
  match x with
  | .enter => (s.moveHeld s.lc).switchAtLug s.lc
  | .close => s.closeLug (s.lugAt (s.windowW + 1))
  | .commit => s.commitPosition (s.lugAt s.commitC)
  | .sort => s.sortLug (s.lugAt s.sortS)
  | .status => s.publish .lugTracker .status
  | .statistics => s.publish .tally .stats

/-- R8: the new lug and its entry, and the lug counted (R7). -/
def State.newLug (s : State) : State :=
  let n := s.lc + 1
  (({ s with lc := n } : State).setEntry n (some ⟨n, none, none, false⟩)).bump .lugs

/-- R7: a lug event in RUN or DRAIN; an edge in INIT or IDLE does nothing. Each task is run once, in the order asked for
(log entry 6). -/
def State.lugEvent (s : State) (order : List LugTask) : State :=
  if s.running then s.newLug.forEach (keepFirst [] (order ++ defaultTasks)) State.lugTask else s

/-- LUG_EVENT. -/
def execLugEvent (order : List LugTask) (s : State) : Host.Outcome State Fault Refusal :=
  .next (s.beginEvent.lugEvent order)

end Sys2Proof.Machine
end

