-- ==== Sys2Proof/Machine/PathUnit.lean ====
section
/-! DEFINITION. The path unit: upstream writes (R148 to R153) and the events a capture makes (R20, R21, R151). -/

namespace Sys2Proof.Machine

/-- The enabled bytes of a write, each with its offset; the first byte of the write is at offset o. -/
def enabledBytes : Nat → List (Byte × Bool) → List Host.Cell
  | _, [] => []
  | o, (x, true) :: xs => (o, x) :: enabledBytes (o + 1) xs
  | o, (_, false) :: xs => enabledBytes (o + 1) xs

/-- The first guarded area that an enabled byte lies in, if any (R152). -/
def State.guardHit (s : State) (xs : List Host.Cell) : Option Area := xs.findSome? fun x => s.guardedArea x.1

/-- R152: a guarded write of n bytes is discarded whole, answered good, counted and reported, in the order of its block's
traffic (R154); o is the plain offset of its lowest enabled byte. -/
def State.discardWrite (s : State) (x : Area) (o n : Nat) : State :=
  s.orderGuard ((s.path.arenaBase + o) / 64) (.guard x.code o n)

/-- Head, slot and block of an offset in the frame rings (chapter 2.1). -/
def frameHead (o : Nat) : Fin 9 := Fin.ofNat 9 ((o - 0x10000) / 0x1000)
def frameSlot (o : Nat) : Fin 16 := Fin.ofNat 16 (o / 0x100)
def frameBlock (o : Nat) : Fin 4 := Fin.ofNat 4 (o / 0x40)

/-- Whether a captured write covers the n bytes from an offset. -/
def covers (xs : List Host.Cell) (o n : Nat) : Bool := (List.range n).all fun k => xs.any fun x => decide (x.1 = o + k)

/-- R20 and R21: a captured write whose first enabled byte is at offset o of the frame rings marks its block, and is an
arrival when it covers the eight bytes of the trailer. -/
def State.frameEvents (s : State) (o : Nat) (xs : List Host.Cell) : State :=
  let h := frameHead o
  let slot := frameSlot o
  let t := s.markBlock h slot (frameBlock o)
  if covers xs (frameBase h slot + 0xF8) 8 then t.frameArrival h slot else t

/-- R151: the events that a capture makes, handed to the owner of the area; o is the offset of the first captured byte. -/
def State.captureEvents (s : State) (o : Nat) (xs : List Host.Cell) : State :=
  match areaOf o with
  | some .frameRings => s.frameEvents o xs
  | some .commandCount => if covers xs 0x1800 2 then s.countArrival .command else s
  | some .overrideCount => if covers xs 0x2800 2 then s.countArrival .override else s
  | _ => s

/-- Pass memory's answer to a write back to its master; with no answer before RESET_N goes low, the write is left
unanswered (R148). -/
def State.passAnswer (s : State) (answer : Option Bool) : State :=
  match answer with
  | none => s
  | some good => s.emit (.masterAnswer good [])

/-- Forward a write to memory and pass memory's answer back (R148). -/
def State.forward (s : State) (addr : Nat) (w : BusWrite) : State :=
  (s.emit (.forwardWrite addr w.bytes)).passAnswer w.answer

/-- R151: capture the enabled bytes that lie in watched areas, forward the write, and hand over its events. -/
def State.captureWrite (s : State) (o : Nat) (w : BusWrite) : State :=
  let xs := (enabledBytes o w.bytes).filter fun x => s.watches x.1
  let t := (s.setShadow (writeBytes s.shadow xs)).forward (s.path.arenaBase + o) w
  match xs with
  | [] => t
  | x :: _ => t.captureEvents x.1 xs

/-- A write into the arena, at a plain offset (the alias folded). -/
def State.arenaWrite (s : State) (o : Nat) (w : BusWrite) : State :=
  let xs := enabledBytes o w.bytes
  match s.guardHit xs with
  | some x => s.discardWrite x ((xs.head?.map Prod.fst).getD o) w.bytes.length
  | none => s.captureWrite o w

/-- An upstream write at its acceptance (R148 to R152). While RESET_N is low none is accepted. -/
def State.upstreamWrite (s : State) (w : BusWrite) : State :=
  if s.resetLow then s
  else
    match s.offsetOf w.addr with
    | none => s.forward w.addr w
    | some (o, _) => s.arenaWrite o w

/-- WATCHED_WRITE (R151). -/
def execWatchedWrite (w : BusWrite) (s : State) : Host.Outcome State Fault Refusal :=
  .next (s.beginEvent.upstreamWrite w)

/-- GUARDED_WRITE (R152). -/
def execGuardedWrite (w : BusWrite) (s : State) : Host.Outcome State Fault Refusal :=
  .next (s.beginEvent.upstreamWrite w)

/-- FRAME_ARRIVAL (R21). -/
def execFrameArrival (w : BusWrite) (s : State) : Host.Outcome State Fault Refusal :=
  .next (s.beginEvent.upstreamWrite w)

end Sys2Proof.Machine
end

