-- ==== Sys2Proof/Machine/Dispatch.lean ====
section
/-! DEFINITION. Which meaning each command has. -/

namespace Sys2Proof.Machine

/-- The effect of a command on everything but the queue. -/
def exec (i : Instr) (s : State) : Host.Outcome State Fault Refusal :=
  match i with
  | .reset => Sys2Proof.Machine.execReset s
  | .resetRelease arenaSel => Sys2Proof.Machine.execResetRelease arenaSel s
  | .initialPublicationEnd => Sys2Proof.Machine.execInitialPublicationEnd s
  | .lugEvent order => Sys2Proof.Machine.execLugEvent order s
  | .watchedWrite w => Sys2Proof.Machine.execWatchedWrite w s
  | .guardedWrite w => Sys2Proof.Machine.execGuardedWrite w s
  | .frameArrival w => Sys2Proof.Machine.execFrameArrival w s
  | .overrideGrade station lug grade => Sys2Proof.Machine.execOverrideGrade station lug grade s
  | .overrideTrim station lug a b => Sys2Proof.Machine.execOverrideTrim station lug a b s
  | .overrideReman station lug => Sys2Proof.Machine.execOverrideReman station lug s
  | .overrideCancel station lug => Sys2Proof.Machine.execOverrideCancel station lug s
  | .overrideUnknownKind kind station lug => Sys2Proof.Machine.execOverrideUnknownKind kind station lug s
  | .startLine => Sys2Proof.Machine.execStartLine s
  | .drainLine => Sys2Proof.Machine.execDrainLine s
  | .stopLine => Sys2Proof.Machine.execStopLine s
  | .bankSwitch bank lug => Sys2Proof.Machine.execBankSwitch bank lug s
  | .sawMask saws => Sys2Proof.Machine.execSawMask saws s
  | .headEnable heads => Sys2Proof.Machine.execHeadEnable heads s
  | .runNew => Sys2Proof.Machine.execRunNew s
  | .runAdvance => Sys2Proof.Machine.execRunAdvance s
  | .binHold bin => Sys2Proof.Machine.execBinHold bin s
  | .binEmpty bin => Sys2Proof.Machine.execBinEmpty bin s
  | .noticeRoute kind route => Sys2Proof.Machine.execNoticeRoute kind route s
  | .statsClear => Sys2Proof.Machine.execStatsClear s
  | .commandUnknown code => Sys2Proof.Machine.execCommandUnknown code s
  | .solveBegin => Sys2Proof.Machine.execSolveBegin s
  | .solveCompletion => Sys2Proof.Machine.execSolveCompletion s
  | .headStatusConsumingRead e => Sys2Proof.Machine.execHeadStatusConsumingRead e s
  | .runRecordConsumingRead e => Sys2Proof.Machine.execRunRecordConsumingRead e s
  | .trimSortConsumingRead e => Sys2Proof.Machine.execTrimSortConsumingRead e s
  | .noticeConsumingRead e => Sys2Proof.Machine.execNoticeConsumingRead e s
  | .injectedWriteAnswer index good => Sys2Proof.Machine.execInjectedWriteAnswer index good s

end Sys2Proof.Machine
end

