-- ==== Sys2Proof/Machine/Step.lean ====
section
/-! DEFINITION. One step: the command at the front of the queue, or idling (log entry 1). -/

namespace Sys2Proof.Machine

/-- Take the front command off the queue and run it on the rest; with no command waiting, the block idles. -/
def step (s : State) : Host.Outcome State Fault Refusal :=
  match s.pending with
  | [] => .next s
  | c :: cs => exec c { s with pending := cs }

/-- Put the command a word spells at the front of the queue; the table gives no row any bits, so no word spells one. -/
def State.withFetchWord (s : State) (nbits w : Nat) : State :=
  match decodeTableWord nbits w with
  | none => s
  | some c => { s with pending := c :: s.pending }

end Sys2Proof.Machine
end

