-- ==== Sys2Proof/Safety.lean ====
section
/-! DEFINITION. What counts as a safe run, in the terms that claims use: the invariants of the state, the condition under
which an entry given by a command row is taken at once, and the views of an entry's answer. -/

namespace Sys2Proof.Machine

/-- The fields of State, those of the path unit one by one. -/
inductive Field where
  | pending | resetLow | lineState | lc | config | lugLine | boards | heads | solver | held | trimRing | sortRing
  | bins | logUnit | runs | stats | cmdRing | ovrRing | banks | sawMask | routes | notices
  | arenaBase | stamps | publications | initialRest | heldReads | openReads | waitingGuards | event | ports | shadow
  deriving DecidableEq, Repr

/-- s and t have the same content of a field. -/
def Same : Field → State → State → Prop
  | .pending, s, t => t.pending = s.pending
  | .resetLow, s, t => t.resetLow = s.resetLow
  | .lineState, s, t => t.lineState = s.lineState
  | .lc, s, t => t.lc = s.lc
  | .config, s, t => t.config = s.config
  | .lugLine, s, t => t.lugLine = s.lugLine
  | .boards, s, t => t.boards = s.boards
  | .heads, s, t => t.heads = s.heads
  | .solver, s, t => t.solver = s.solver
  | .held, s, t => t.held = s.held
  | .trimRing, s, t => t.trimRing = s.trimRing
  | .sortRing, s, t => t.sortRing = s.sortRing
  | .bins, s, t => t.bins = s.bins
  | .logUnit, s, t => t.logUnit = s.logUnit
  | .runs, s, t => t.runs = s.runs
  | .stats, s, t => t.stats = s.stats
  | .cmdRing, s, t => t.cmdRing = s.cmdRing
  | .ovrRing, s, t => t.ovrRing = s.ovrRing
  | .banks, s, t => t.banks = s.banks
  | .sawMask, s, t => t.sawMask = s.sawMask
  | .routes, s, t => t.routes = s.routes
  | .notices, s, t => t.notices = s.notices
  | .arenaBase, s, t => t.path.arenaBase = s.path.arenaBase
  | .stamps, s, t => t.path.stamps = s.path.stamps
  | .publications, s, t => t.path.publications = s.path.publications
  | .initialRest, s, t => t.path.initialRest = s.path.initialRest
  | .heldReads, s, t => t.path.heldReads = s.path.heldReads
  | .openReads, s, t => t.path.openReads = s.path.openReads
  | .waitingGuards, s, t => t.path.waitingGuards = s.path.waitingGuards
  | .event, s, t => t.path.event = s.path.event
  | .ports, s, t => t.path.ports = s.path.ports
  | .shadow, s, t => t.shadow = s.shadow

/-- t has the content of s in every field but those listed: what a command leaves unchanged. -/
def OnlyChanges (touched : List Field) (s t : State) : Prop := ∀ f : Field, f ∉ touched → Same f s t

/-- The outcome is a next state. -/
def answersNext (o : Host.Outcome State Fault Refusal) : Prop := ∃ t, o = .next t

/-- The shadows are in their one canonical form. -/
def State.ShadowCanonical (s : State) : Prop := Memory.wf s.shadow = true

/-- At most six requests hold shared credits (R82). -/
def State.CreditsBounded (s : State) : Prop := s.solver.shared.length ≤ 6

/-- Each notice ring holds at most 32 notices, and the attention output of a ring that holds none is low (R179, R182). -/
def State.NoticesBounded (s : State) : Prop :=
  ∀ n : Fin 2, s.notices[n].held ≤ 32 ∧ (s.notices[n].held = 0 → attn s n = false)

/-- The held-override table has at most 8 entries (R100). -/
def State.HeldBounded (s : State) : Prop := s.held.length ≤ 8

/-- Each defect list is in its order, one entry for a cell and kind, and holds at most 64 entries (R39). -/
def State.DefectsOrdered (s : State) : Prop :=
  ∀ i : Fin 64, s.boards[i].defects.Pairwise (fun d x => d.before x = true) ∧ s.boards[i].defects.length ≤ 64

/-- Every lug entry stands at the index of its lug (R8). -/
def State.LugLinePlaced (s : State) : Prop := ∀ i : Fin 64, ∀ e, s.lugLine[i] = some e → lugIndex e.lug = i

/-- One bank is ACTIVE at every moment (Table 10-6). -/
def State.OneActiveBank (s : State) : Prop := (s.banks.stateA = .active) ↔ (s.banks.stateB ≠ .active)

/-- The arena base is a multiple of 8 MiB, below 64 times that (R149). -/
def State.ArenaPlaced (s : State) : Prop := ∃ k : Nat, k < 64 ∧ s.path.arenaBase = k * arenaSize

/-- The part is out of reset and out of INIT, the initial publication is over, and a ring has no pending count: an entry
given to the ring is taken at once (R159, R162, R166). -/
structure State.Takes (s : State) (ring : Ring) : Prop where
  released : s.resetLow = false
  outOfInit : s.lineState ≠ .init
  nonePending : (s.counts ring).pendingCount = none
  published : s.path.initialRest = []
  canonical : s.ShadowCanonical

/-- The offset of the entry that the next command or override given to a ring is placed in. -/
def State.entrySlot (s : State) (ring : Ring) : Nat := ring.entryOffset (entryIndex (s.counts ring).consumer)

/-- Bytes 10H to 17H of the entry at an offset, as the shadow holds them (R160). -/
def State.answerAt (s : State) (offset : Nat) : List Byte := readBytes s.shadow (offset + 0x10) 8

/-- The shadows of s and t agree outside the 32-byte entry at an offset and the two count bytes of its ring. -/
def ShadowFrame (s t : State) (ring : Ring) : Prop :=
  ∀ a : Nat, ¬(s.entrySlot ring ≤ a ∧ a < s.entrySlot ring + 0x20) → a ≠ ring.countOffset → a ≠ ring.countOffset + 1 →
    readByte t.shadow a = readByte s.shadow a

/-- What every taken entry does beside its own effect: the answer stands in its entry, the counts pass it, and the
shadows are otherwise as they were (R160). -/
structure Answered (s t : State) (ring : Ring) (answer : List Byte) : Prop where
  answer : t.answerAt (s.entrySlot ring) = answer
  counts : t.counts ring = ⟨(s.counts ring).consumer + 1, (s.counts ring).consumer + 1, none⟩
  shadow : ShadowFrame s t ring

/-- Bytes 10H to 17H of an answered command entry (Table 12-3): the code, LC, and the detail as an item or kind and an
index, run number or lug. -/
def answerBytes (code : Byte) (lc : Half) (item index : Nat) : List Byte :=
  [code, 0] ++ leBytes 2 lc.toNat ++ [BitVec.ofNat 8 item, 0] ++ leBytes 2 index

/-- Bytes 10H to 17H of an answered override entry (Table 12-3): the code, the state seen, LC and the other station. -/
def overrideAnswerBytes (code seen : Byte) (lc : Half) (other : Byte) : List Byte :=
  [code, seen] ++ leBytes 2 lc.toNat ++ [other, 0, 0, 0]

/-- The station byte of an answer: FFH for none (Table 12-3). -/
def stationByte (o : Option Override) : Byte := (o.map fun x => BitVec.ofNat 8 x.station.val).getD 0xFF

/-- What any command entry taken changes beside its own effect: the ring, its shadow, and what reports it. -/
def commandTraces : List Field := [.cmdRing, .shadow, .stamps, .publications, .event, .ports]

/-- What any override entry taken changes beside its own effect: as for a command, and the counter of its answer. -/
def overrideTraces : List Field := [.ovrRing, .stats, .shadow, .stamps, .publications, .event, .ports]

/-- The listed records were republished once each, and no other record was (R155). -/
def Republishes (records : List Record) (s t : State) : Prop :=
  ∀ r : Record, t.stamp r = if r ∈ records then s.stamp r + 1 else s.stamp r

/-- The override row that asks for an action, or CANCEL for none. -/
def overrideRow (station : Fin 8) (lug : Half) : Option OverrideAction → Instr
  | some (.grade g) => .overrideGrade (BitVec.ofNat 8 station.val) lug (BitVec.ofNat 8 g.val)
  | some (.trim a b) => .overrideTrim (BitVec.ofNat 8 station.val) lug (BitVec.ofNat 8 a.val) (BitVec.ofNat 8 b.val)
  | some .reman => .overrideReman (BitVec.ofNat 8 station.val) lug
  | none => .overrideCancel (BitVec.ofNat 8 station.val) lug

/-- The notices of an override that takes a place: OVR_SUPERSEDED where it replaces one (R105). CANCEL raises none. -/
def supersededNotices (lug : Half) (old : Option Override) (station : Fin 8) (a : Option OverrideAction) : List Notice :=
  match old, a with
  | some o, some x => [.ovrSuperseded lug o ⟨station, x⟩]
  | _, _ => []

/-- A TRIM override names two saws in ascending order (R103). -/
def trimOrdered : Option OverrideAction → Prop
  | some (.trim a b) => a.val < b.val
  | _ => True

/-- The count state of a ring among the fields. -/
def Ring.field : Ring → Field
  | .command => .cmdRing
  | .override => .ovrRing

/-- The entries that wait for the end of INIT in a ring (R164). -/
def State.pendingEntries (s : State) (ring : Ring) : Nat :=
  ((s.counts ring).pendingCount.map fun c => (c - (s.counts ring).consumer).toNat).getD 0

/-- The part's own write that a port event is, if it is one. -/
def PortEvent.ownWrite : PortEvent → Option InjectedWrite
  | .injected x => some x
  | .forwardWrite _ _ => none
  | .forwardRead _ _ => none
  | .masterAnswer _ _ => none

/-- What the ports carry for a write that is forwarded: the write, and memory's answer where it comes (R148). -/
def State.forwarded (s : State) (o : Nat) (w : BusWrite) : List PortEvent :=
  .forwardWrite (s.path.arenaBase + o) w.bytes :: w.answer.toList.map fun good => .masterAnswer good []

/-- The shadow after a write at plain offset o is captured (R151). -/
def State.captured (s : State) (o : Nat) (w : BusWrite) : List Host.Cell :=
  writeBytes s.shadow ((enabledBytes o w.bytes).filter fun x => s.watches x.1)

/-- The header word of a record, by the layouts of chapter 12.5. -/
def State.headerWord (s : State) (r : Record) : List Byte :=
  let stamp := leBytes 2 (s.stamp r).toNat
  match r with
  | .status => stamp ++ [s.lineState.code, 0] ++ leBytes 2 s.lc.toNat ++ [0, 0]
  | .head h =>
    [BitVec.ofNat 8 h.val, boolByte s.heads[h].enabled, s.heads[h].flagByte, boolByte s.heads[h].blocked, 0, 0] ++ stamp
  | .board i =>
    stamp ++ [s.boards[i].state.code, BitVec.ofNat 8 s.boards[i].slot.val] ++ leBytes 2 s.boards[i].lug.toNat
      ++ leBytes 2 s.boards[i].run.toNat
  | .trim i =>
    [s.trimRing[i].state.code, boolByte s.trimRing[i].present] ++ leBytes 2 s.trimRing[i].lug.toNat ++ stamp ++ [0, 0]
  | .sort i =>
    [s.sortRing[i].state.code, boolByte s.sortRing[i].present] ++ leBytes 2 s.sortRing[i].lug.toNat ++ stamp ++ [0, 0]
  | .run i =>
    leBytes 2 s.runs.slots[i].number.toNat ++ [s.runs.slots[i].state.code, BitVec.ofNat 8 i.val] ++ stamp ++ [0, 0]
  | .bin n =>
    [s.bins[n].state.code, BitVec.ofNat 8 s.bins[n].alternate] ++ leBytes 2 s.bins[n].capacity ++ stamp ++ [0, 0]
  | .notice ring slot =>
    match s.notices[ring].slots[slot] with
    | none => [0, 0, 0, 0, 0, 0] ++ stamp
    | some (n, seq) => [BitVec.ofNat 8 n.code, 0] ++ leBytes 2 seq.toNat ++ leBytes 2 n.subject.toNat ++ stamp
  | .stats => stamp ++ [0, 0, 0, 0, 0, 0]
  | .log i =>
    leBytes 2 s.logUnit.ring[i].closeSeq.toNat ++ stamp ++ leBytes 2 s.logUnit.ring[i].number.toNat
      ++ leBytes 2 s.logUnit.ring[i].run.toNat

/-- The size of a record in bytes (Table 12-1). -/
def Record.size : Record → Nat
  | .status => 4096
  | .head _ => 64
  | .board _ => 512
  | .trim _ => 32
  | .sort _ => 32
  | .run _ => 2048
  | .bin _ => 32
  | .notice _ _ => 16
  | .stats => 256
  | .log _ => 256

/-- n bytes of a record from one of its offsets. -/
def bytesAt (xs : List Byte) (offset n : Nat) : List Byte := (xs.drop offset).take n

/-- Whether a read waits for a publication: it asks for the header block of a record the publication writes (R156). -/
def State.readWaits (s : State) (p : Publication) (r : BusRead) : Bool :=
  (s.readsHeader r).any fun x => decide (x ∈ p.target.records)

/-- Whether memory's answer to a record's write at a stamp is the answer to the slot write of a notice that a ring holds
(R182). -/
def State.answersHeld (s : State) (ring : Fin 2) (stamp : Half) (r : Record) : Prop :=
  ∃ slot, r = .notice ring slot ∧ s.notices[ring].holds slot = true ∧ s.stamp r = stamp

/-- The boards that STOP_LINE loses and that a test admits (R17). -/
def State.lossesWhere (s : State) (p : Board → Bool) : Nat := (s.slotsInUse.filter fun i => p s.boards[i]).length

/-- The rows that carry an upstream read. -/
def readRows (e : ReadEvent) : List Instr :=
  [.headStatusConsumingRead e, .runRecordConsumingRead e, .trimSortConsumingRead e, .noticeConsumingRead e]

/-- The rows that carry an upstream write. -/
def writeRows (w : BusWrite) : List Instr := [.watchedWrite w, .guardedWrite w, .frameArrival w]

end Sys2Proof.Machine
end

