-- ==== Sys2Proof/WellFormed.lean ====
section
/-! DEFINITION. The checks on a command as it stands: the form of a bus transaction (chapter 9.1) and the codes that
make an entry unknown (R103, R166). -/

namespace Sys2Proof

/-- A transaction of n bytes from addr: 1 to 64 bytes, within one block (chapter 9.1). -/
def inOneBlock (addr n : Nat) : Bool :=
  decide (1 ≤ n) && decide (addr % 64 + n ≤ 64)

def BusWrite.wf (w : BusWrite) : Bool := inOneBlock w.addr w.bytes.length

def BusRead.wf (r : BusRead) : Bool := inOneBlock r.addr r.enables.length

/-- An answered read returns one byte for each byte it asked for. -/
def ReadEvent.wf : ReadEvent → Bool
  | .accept r => r.wf
  | .answer r _ data => r.wf && decide (data.length = r.enables.length)

/-- Whether the command could be given: the bus carries it, and an unknown code or kind names no known one. -/
def Instr.wf : Instr → Bool
  | .reset => true
  | .resetRelease _ => true
  | .initialPublicationEnd => true
  | .lugEvent order => decide order.Nodup
  | .watchedWrite w => w.wf
  | .guardedWrite w => w.wf
  | .frameArrival w => w.wf
  | .overrideGrade _ _ _ => true
  | .overrideTrim _ _ _ _ => true
  | .overrideReman _ _ => true
  | .overrideCancel _ _ => true
  | .overrideUnknownKind kind _ _ => !(decide (1 ≤ kind.toNat) && decide (kind.toNat ≤ 4))
  | .startLine => true
  | .drainLine => true
  | .stopLine => true
  | .bankSwitch _ _ => true
  | .sawMask _ => true
  | .headEnable _ => true
  | .runNew => true
  | .runAdvance => true
  | .binHold _ => true
  | .binEmpty _ => true
  | .noticeRoute _ _ => true
  | .statsClear => true
  | .commandUnknown code => !(decide (1 ≤ code.toNat) && decide (code.toNat ≤ 12))
  | .solveBegin => true
  | .solveCompletion => true
  | .headStatusConsumingRead e => e.wf
  | .runRecordConsumingRead e => e.wf
  | .trimSortConsumingRead e => e.wf
  | .noticeConsumingRead e => e.wf
  | .injectedWriteAnswer _ _ => true

def ReadEvent.transactions : ReadEvent → List (Nat × Nat)
  | .accept r => [(r.addr, r.enables.length)]
  | .answer r _ _ => [(r.addr, r.enables.length)]

/-- The bus transaction that a command carries, if any, as its first byte's address and its length in bytes. -/
def Instr.transactions : Instr → List (Nat × Nat)
  | .watchedWrite w => [(w.addr, w.bytes.length)]
  | .guardedWrite w => [(w.addr, w.bytes.length)]
  | .frameArrival w => [(w.addr, w.bytes.length)]
  | .headStatusConsumingRead e => e.transactions
  | .runRecordConsumingRead e => e.transactions
  | .trimSortConsumingRead e => e.transactions
  | .noticeConsumingRead e => e.transactions
  | _ => []

end Sys2Proof
end

