-- ==== Sys2Proof/Certificates/Slice0/Obligations.lean ====
section
/-! DEFINITION. The statements for the provers, from the numbered rules of spec/. -/

open Sys2Proof Sys2Proof.Machine

/-! ### The machine -/

/-- A step runs the command at the front of the queue on the rest of the queue (log entry 1). -/
def Obligations.StepRunsFrontCommand : Prop :=
  ∀ (c : Instr) (s : State), step { s with pending := c :: s.pending } = exec c s

/-- Every command answers a next state and leaves the queue alone; with nothing waiting the block idles (log entry 1). -/
def Obligations.EveryCommandAnswersNext : Prop :=
  (∀ (c : Instr) (s : State), ∃ t, exec c s = .next t ∧ t.pending = s.pending) ∧
    ∀ s : State, s.pending = [] → step s = .next s

/-! ### Reset -/

/-- RESET puts every block at its reset values, whatever stood before; only the queue stays, and the model's own event
number goes on (log entries 2 and 5). Those values
are as the rules give them (R1, R15, R19, R46, R57, R79, R100, R118, R137, R144, R161, R162, R165, R177): every run slot
FREE with its number, its boards in line and its tally 0, every stamp 0, and every field of every board record, trim
slot, sort slot and log ring slot 0, with the states FREE and EMPTY. -/
def Obligations.ResetValues : Prop :=
  (∀ s : State, exec .reset s = .next
    { State.reset with pending := s.pending, path := { Path.atReset with event := s.path.event + 1 } }) ∧
  let s := State.reset
  (s.lineState = .init ∧ s.lc = 0 ∧ s.config = none ∧ ∀ i : Fin 64, s.lugLine[i] = none) ∧
  (∀ i : Fin 64, s.boards[i] =
    { state := .free, slot := 0, lug := 0, run := 0, bank := .a, overflow := false, ignored := 0, defects := []
      sliceSets := Vector.replicate 8 [], acc := Vector.replicate 48 ⟨0, 0, 0, 0⟩
      cells := Vector.replicate 48 ⟨0, 0, 0, false, false, false, 0⟩, roughCells := 0, request := none
      override := none, plan := none, stale := none, committed := none }) ∧
  (∀ h : Fin 9, s.heads[h].enabled = true ∧ s.heads[h].flagByte = 0 ∧ s.heads[h].expected = none ∧
    (∀ k : Fin 16, s.heads[h].marks[k] = 0) ∧ ∀ k : Fin 8, s.heads[h].counters[k] = 0) ∧
  (s.solver = ⟨[], none, none, [], none⟩ ∧ s.held = []) ∧
  (s.logUnit.openLog = none ∧ s.logUnit.closeCount = 0 ∧
    ∀ i : Fin 16, s.logUnit.ring[i] = ⟨0, 0, 0, 0, 0, false, 0, 0, 0, 0⟩) ∧
  ((∀ r : Fin 8, s.runs.slots[r] =
      ⟨.free, 0, 0, ⟨0, 0, 0, 0, 0, 0, Vector.replicate 8 0, Vector.replicate 8 0, Vector.replicate 84 0, 0, 0, 0⟩⟩) ∧
    s.runs.queue = [] ∧ s.runs.nextNumber = 1 ∧ s.runs.infeed = none ∧ s.runs.outfeed = none) ∧
  ((∀ i : Fin 16, s.trimRing[i] = ⟨.empty, 0, false, 0, none, 0, 0⟩ ∧
      s.sortRing[i] = ⟨.empty, 0, false, 0, 0, 0, 0, 0⟩) ∧
    ∀ n : Fin 41, s.bins[n] = ⟨.opened, 0, 0, 0, 0⟩) ∧
  (∀ k : Fin 24, s.stats[k] = 0) ∧
  (s.cmdRing = ⟨0, 0, none⟩ ∧ s.ovrRing = ⟨0, 0, none⟩) ∧
  (s.banks = ⟨.active, .spare, 0, 0, none⟩ ∧ s.sawMask = BitVec.allOnes 13 ∧ s.routes = defaultRoutes) ∧
  (∀ n : Fin 2, (∀ k : Fin 32, s.notices[n].slots[k] = none) ∧ s.notices[n].next = 0 ∧ s.notices[n].held = 0 ∧
    s.notices[n].lost = 0 ∧ attn s n = false) ∧
  (s.path.arenaBase = 0 ∧ (∀ r : Record, s.stamp r = 0) ∧ s.path.publications = [] ∧ s.path.initialRest = [] ∧
    s.path.heldReads = [] ∧ s.path.openReads = [] ∧ s.path.waitingGuards = [] ∧
    ∀ a : Nat, readByte s.shadow a = 0)

/-- The invariants that the steps keep hold in the reset state. -/
def Obligations.InvariantsHoldAtReset : Prop :=
  State.reset.ShadowCanonical ∧ State.reset.CreditsBounded ∧ State.reset.NoticesBounded ∧ State.reset.HeldBounded ∧
    State.reset.DefectsOrdered ∧ State.reset.LugLinePlaced ∧ State.reset.OneActiveBank ∧ State.reset.ArenaPlaced

/-- RESET_RELEASE samples the arena base and begins the initial publication with the status block (R149, R162). -/
def Obligations.ResetReleaseBegins : Prop :=
  ∀ (s : State) (sel : BitVec 6), s.resetLow = true →
    ∃ t, exec (.resetRelease sel) s = .next t ∧ t.resetLow = false ∧ t.path.arenaBase = sel.toNat * 0x800000 ∧
      t.path.initialRest = initialUnits.tail ∧
      t.path.publications.map Publication.target = s.path.publications.map Publication.target ++ [.initial .status] ∧
      OnlyChanges [.resetLow, .arenaBase, .publications, .initialRest, .event, .ports] s t

/-- The end of the initial publication. Every initial write not yet made is made, those of the units begun and then those
of the other units in ascending order, and the held reads of those records go on. The line goes through IDLE: the status
block showing IDLE and the statistics are the next publications. Then each pending count is taken: the ring's counts
meet at it, every override entry is answered NOT_RUNNING and counted, and every command entry is answered. With no
command pending the line is IDLE; with nothing pending nothing else changes but that a held notice whose slot write was
answered raises ATTN (R1, R145, R162, R164, R182; log entries 5, 13 and 14). -/
def Obligations.InitialPublicationEnds : Prop :=
  ∀ s : State, s.resetLow = false → s.lineState = .init →
    let begun := s.path.publications.filter isInitial
    ∃ t a b more, exec .initialPublicationEnd s = .next t ∧ t.path.initialRest = [] ∧
      t.path.ports.filterMap PortEvent.ownWrite =
        begun.flatMap (fun p => p.writes.tail) ++ s.path.initialRest.flatMap s.beginEvent.unitWrites ∧
      t.path.heldReads =
        s.path.heldReads.filter (fun r => !(s.readsHeader r).any fun x => decide (x ∈ s.initialRecords)) ∧
      (∀ r ∈ s.path.heldReads, r ∈ t.path.heldReads ∨ r ∈ t.path.openReads) ∧
      t.path.publications = (s.path.publications.filter fun p => !isInitial p) ++ [a, b] ++ more ∧
      (∀ p ∈ more, isInitial p = false) ∧
      (a.target = .record .status ∧ a.stamp = s.stamp .status + 1 ∧
        a.writes.getLast?.map (fun x => bytesAt x.bytes 2 1) = some [1]) ∧
      (b.target = .record .stats ∧ b.stamp = s.stamp .stats + 1) ∧
      (∀ ring, (s.counts ring).pendingCount = none → t.counts ring = s.counts ring) ∧
      (∀ ring c, (s.counts ring).pendingCount = some c → t.counts ring = ⟨c, c, none⟩) ∧
      (s.ShadowCanonical → ∀ k, k < s.pendingEntries .override →
        t.answerAt (overrideOffset (entryIndex (s.ovrRing.consumer + BitVec.ofNat 16 k))) =
          overrideAnswerBytes 4 0 s.lc 0xFF) ∧
      (s.ShadowCanonical → ∀ k, k < s.pendingEntries .command →
        ∃ code item index, 1 ≤ code.toNat ∧ code.toNat ≤ 10 ∧
          t.answerAt (commandOffset (entryIndex (s.cmdRing.consumer + BitVec.ofNat 16 k))) =
            answerBytes code s.lc item index) ∧
      (s.cmdRing.pendingCount = none →
        t.lineState = .idle ∧ t.stats = s.stats.set 18 (satAdd s.stats[18] (s.pendingEntries .override))) ∧
      (s.cmdRing.pendingCount = none → s.ovrRing.pendingCount = none →
        more = [] ∧ Republishes [.status, .stats] s t ∧
        (∀ ring, t.notices[ring] = { s.notices[ring] with attn := attn t ring } ∧
          (attn t ring = true ↔ attn s ring = true ∨
            (∃ p ∈ begun, ∃ r ∈ p.target.records, s.answersHeld ring p.stamp r) ∨
            ∃ u ∈ s.path.initialRest, ∃ r ∈ u.records, s.answersHeld ring 0 r)) ∧
        OnlyChanges [.lineState, .notices, .stamps, .publications, .initialRest, .heldReads, .openReads, .event, .ports]
          s t)

/-! ### The lug line -/

/-- A lug event. A rising edge in INIT or IDLE does nothing. In RUN or DRAIN LC grows by 1, the entry of the new lug is
made and the lug counted, and then each of six tasks is carried out once, in any order: those of an order asked for come
first (log entry 6). The commit task commits the lug at distance C, closed first where C = W + 1; the sort task sorts the
lug at distance S; two tasks republish the status block and the statistics. The task of the lug that enters scan moves an
override held for it into its entry, and makes a switch pending for it, with BANK_SWITCHED MADE that names the lug and
the state of the bank that was ACTIVE, or, where its bank fails validation, drops it with REFUSED. The line may go from
DRAIN to IDLE, and what no position touches stays (R5, R7 to R10, R107, R145, R172, R173). -/
def Obligations.LugEventAdvances : Prop :=
  (∀ (s : State) (order : List LugTask), s.running = false →
    ∃ t, exec (.lugEvent order) s = .next t ∧ OnlyChanges [.event, .ports] s t) ∧
  (∀ (s : State) (order : List LugTask), s.running = true →
    ∃ (u t : State) (tasks : List LugTask), exec (.lugEvent order) s = .next t ∧ t = u.forEach tasks State.lugTask ∧
      tasks.Perm [.enter, .close, .commit, .sort, .status, .statistics] ∧ (order.Nodup → order <+: tasks) ∧
      (u.lc = s.lc + 1 ∧ u.lugLine = s.lugLine.set (lugIndex (s.lc + 1)) (some ⟨s.lc + 1, none, none, false⟩) ∧
        u.stats = s.stats.set 0 (satAdd s.stats[0] 1) ∧ OnlyChanges [.lc, .lugLine, .stats, .event, .ports] s u) ∧
      t.lc = s.lc + 1 ∧ (t.lineState = s.lineState ∨ (s.lineState = .drain ∧ t.lineState = .idle)) ∧
      OnlyChanges [.lineState, .lc, .lugLine, .boards, .solver, .held, .trimRing, .sortRing, .bins, .runs, .stats,
        .banks, .notices, .stamps, .publications, .event, .ports] s t) ∧
  (∀ s : State,
    let committing := s.lc - BitVec.ofNat 16 s.commitC
    s.lugTask .commit = (if s.commitC = s.windowW + 1 then s.closeLug committing else s).commitLug committing ∧
    s.lugTask .sort = s.sortLug (s.lc - BitVec.ofNat 16 s.sortS) ∧
    s.lugTask .status = s.publish .lugTracker .status ∧ s.lugTask .statistics = s.publish .tally .stats) ∧
  ∀ (s : State) (e : LugEntry), s.entry s.lc = some e →
    let t := s.lugTask .enter
    (s.heldFor s.lc = none → t.lugLine = s.lugLine ∧ t.held = s.held) ∧
    (∀ o, s.heldFor s.lc = some o →
      t.lugLine = s.lugLine.set (lugIndex s.lc) (some { e with override := some o }) ∧
      t.held = s.held.filter fun y => decide (y.lug ≠ s.lc)) ∧
    ((∀ k, s.banks.pendingSwitch ≠ some (k, s.lc)) → OnlyChanges [.lugLine, .held] s t) ∧
    (∀ k, s.banks.pendingSwitch = some (k, s.lc) → bankCheck s.shadow k = none →
      let old : BankState := if 0 < s.banks.refs k.other then .held else .spare
      t.banks.state k = .active ∧ t.banks.state k.other = old ∧ (∀ j, t.banks.refs j = s.banks.refs j) ∧
      t.banks.pendingSwitch = none ∧ t.notices = (s.raise (.bankSwitched k (.made s.lc old))).notices) ∧
    (∀ k code index, s.banks.pendingSwitch = some (k, s.lc) → bankCheck s.shadow k = some (code, index) →
      t.banks = { s.banks with pendingSwitch := none } ∧
      t.notices = (s.raise (.bankSwitched k (.refused code index))).notices) ∧
    OnlyChanges [.lugLine, .held, .banks, .notices, .stamps, .publications] s t

/-- A lug event that finds no lug at close, commit and sort, no override held for the new lug and no switch pending for
it: the entry of the new lug is made, the lug is counted, and the status block and the statistics are republished, in
any order of the tasks (R7, R8, R145). -/
def Obligations.LugEventOnEmptyLine : Prop :=
  ∀ (s : State) (order : List LugTask), s.running = true → s.path.initialRest = [] →
    (∀ d ∈ [s.windowW + 1, s.commitC, s.sortS], 1 ≤ d ∧ d ≤ 63 ∧ s.entry (s.lc + 1 - BitVec.ofNat 16 d) = none) →
    s.heldFor (s.lc + 1) = none → (∀ x, s.banks.pendingSwitch = some x → x.2 ≠ s.lc + 1) →
    ∃ t, exec (.lugEvent order) s = .next t ∧ t.lc = s.lc + 1 ∧
      t.lugLine = s.lugLine.set (lugIndex (s.lc + 1)) (some ⟨s.lc + 1, none, none, false⟩) ∧
      t.stats = s.stats.set 0 (satAdd s.stats[0] 1) ∧ Republishes [.status, .stats] s t ∧
      OnlyChanges [.lc, .lugLine, .stats, .stamps, .publications, .event, .ports] s t

/-! ### Commit and sort -/

/-- The committed plan of a board, by the first step of R120 that applies. -/
def Obligations.CommitSelection : Prop :=
  ∀ (b : Board) (m : List Host.Cell) (mask : SawSet),
    (b.override.map Override.action = some .reman → b.selectCommit m mask = remanCommit .override) ∧
    (b.override.map Override.action ≠ some .reman → ∀ p, b.state = .solved → b.plan = some p →
      p.overrideUsed = b.override → b.selectCommit m mask = p.committed) ∧
    (b.state ≠ .solved → ∀ p g, b.override.map Override.action = some (.grade g) → b.stale = some p → p.reason = none →
      (sawsWithin p.saws mask = true →
        b.selectCommit m mask =
          { p.committed with
            grade := g.val
            value := segmentValue m b.bank g.val p.lc p.wc
            footage := segmentFootage m b.bank g.val p.lc p.wc
            source := .staleGrade }) ∧
      (sawsWithin p.saws mask = false → b.selectCommit m mask = remanCommit .sawLost)) ∧
    (b.state ≠ .solved → ∀ x y, b.override.map Override.action = some (.trim x y) →
      b.selectCommit m mask = remanCommit .lateTrim) ∧
    (b.state ≠ .solved → b.override = none → b.selectCommit m mask = remanCommit .noSolution) ∧
    (b.state ≠ .solved → ∀ g, b.override.map Override.action = some (.grade g) →
      (∀ p, b.stale = some p → p.reason ≠ none) → b.selectCommit m mask = remanCommit .noSolution)

/-- The commit position of a lug. A board lug: the request of an AWAITING, QUEUED or SOLVING board is cancelled and
counted, with its credit back in its pool, its place in the waiting list gone and a solve in flight for it abandoned; a
returned credit serves the waiting list, where the oldest waiter takes a shared credit that is free; the committed plan
is stored and the stale plan discarded; a fallback is counted in the run and in the statistics, with its notice, before
the trim record is written; an unconsumed trim record counts an overrun, with its notice; and the board is COMMITTED. An
empty lug: its trim record shows no board, no saw and source NONE (R14, R84, R90, R119, R121 to R124). The board keeps
its plan field, which no rule takes from it: the model's reading, log entry 17. Its run is that of its run number, and
where two runs in use have that number the one in the lowest slot: the model's choice, log entry 23. -/
def Obligations.CommitOfBoard : Prop :=
  ∀ (s : State) (lug : Half) (e : LugEntry), s.entry lug = some e →
    let t := s.commitLug lug
    (∀ i : Fin 64, e.board = some i →
      let b := s.boards[i]
      let u := s.cancelAtCommit i
      let p := u.boards[i].selectCommit s.shadow s.sawMask
      let old := s.trimRing[ringSlot b.lug]
      let requests : Prop := b.state = .awaiting ∨ b.state = .queued ∨ b.state = .solving
      let returned : Solver :=
        { shared := s.solver.shared.erase i
          reservedFirst := if s.solver.reservedFirst = some i then none else s.solver.reservedFirst
          reservedResolve := if s.solver.reservedResolve = some i then none else s.solver.reservedResolve
          waiting := s.solver.waiting.erase i
          inFlight := if s.solver.inFlight.map Solve.slot = some i then none else s.solver.inFlight }
      let fallback : Bool := !p.product && decide (p.source ∈ [CommitSource.solved, .sawLost, .lateTrim, .noSolution])
      (¬requests → u = s) ∧
      (requests →
        u.boards[i].request = none ∧ u.solver.inFlight = returned.inFlight ∧
        u.stats[(12 : Fin 24)] = satAdd s.stats[(12 : Fin 24)] 1 ∧
        (b.state = .awaiting ∨ returned.waiting = [] →
          u.solver = returned ∧ u.boards = s.boards.set i { b with request := none } ∧
          u.stats = s.stats.set 12 (satAdd s.stats[(12 : Fin 24)] 1)) ∧
        (b.state ≠ .awaiting → returned.shared.length < 6 → ∀ j js, returned.waiting = j :: js →
          u.boards[j].state = .queued ∧ j ∈ u.solver.shared)) ∧
      t.boards[i] = { u.boards[i] with state := .committed, committed := some p, stale := none } ∧
      t.boards[i].plan = b.plan ∧
      (∀ j, j ≠ i → t.boards[j] = u.boards[j]) ∧ t.solver = u.solver ∧
      t.trimRing = s.trimRing.set (ringSlot b.lug) ⟨.written, b.lug, true, p.saws, some p.source, p.grade, p.lc⟩ ∧
      t.stats[(15 : Fin 24)] = (if fallback then satAdd s.stats[(15 : Fin 24)] 1 else s.stats[(15 : Fin 24)]) ∧
      t.stats[(19 : Fin 24)] =
        (if old.state = .written then satAdd s.stats[(19 : Fin 24)] 1 else s.stats[(19 : Fin 24)]) ∧
      (∀ k : Fin 24, k ∉ [(15 : Fin 24), 19] → t.stats[k] = u.stats[k]) ∧
      (∀ r, fallback = true → s.runOf b.run = some r →
        let x := s.runs.slots[r]
        t.runs = { s.runs with
          slots := s.runs.slots.set r { x with tally := { x.tally with fallbacks := satAdd x.tally.fallbacks 1 } } }) ∧
      (fallback = false ∨ s.runOf b.run = none → t.runs = s.runs) ∧
      t.notices =
        (s.forEach ((if fallback then [.boardFallback b.lug i.val p.source] else []) ++
          (if old.state = .written then [.trimOverrun old.lug b.lug] else [])) State.raise).notices ∧
      OnlyChanges [.boards, .solver, .trimRing, .runs, .stats, .notices, .stamps, .publications] s t) ∧
    (e.board = none →
      let old := s.trimRing[ringSlot lug]
      t.trimRing = s.trimRing.set (ringSlot lug) ⟨.written, lug, false, 0, none, 0, 0⟩ ∧
      (old.state = .written →
        t.stats = s.stats.set 19 (satAdd s.stats[(19 : Fin 24)] 1) ∧
        t.notices = (s.raise (.trimOverrun old.lug lug)).notices) ∧
      (old.state ≠ .written → OnlyChanges [.trimRing, .stamps, .publications] s t) ∧
      OnlyChanges [.trimRing, .stats, .notices, .stamps, .publications] s t)

/-- The bin and overflow code of a matrix bin, in up to two hops over the alternates (R127, R128). -/
def Obligations.BinChoice : Prop :=
  ∀ (s : State) (n : Fin 41),
    (s.available n = true → s.chooseBin n = (n, 0)) ∧
    (s.available n = false → s.available (s.alternateOf n) = true → s.chooseBin n = (s.alternateOf n, 1)) ∧
    (s.available n = false → s.available (s.alternateOf n) = false →
      s.available (s.alternateOf (s.alternateOf n)) = true → s.chooseBin n = (s.alternateOf (s.alternateOf n), 2)) ∧
    (s.available n = false → s.available (s.alternateOf n) = false →
      s.available (s.alternateOf (s.alternateOf n)) = false → s.chooseBin n = (0, 3)) ∧
    s.available 0 = true

/-- The sort position of a lug. A board lug: the chosen bin gains a piece and is FULL at its capacity, the sort record is
written, the run's tally gains the board and its boards in line one less, the board is FREE with its bin stored, its bank
has one reference less, and the entry leaves the line; an overflow, an overrun, a FULL bin, a run that closes and a bank
that is released are counted and raise their notices in this order. In DRAIN, where no other board is in use and no log
is open, the line is then IDLE: the lug line and the held overrides are emptied, a pending switch is dropped, the
statistics are republished and LINE_IDLE is raised. An empty lug: its sort record shows no board, and its entry leaves
the line (R5, R10, R15, R60, R128 to R131, R138, R140, R142, R174, R175). Its run is that of its run number, and where
two runs in use have that number the one in the lowest slot: the model's choice, log entry 23. -/
def Obligations.SortOfBoard : Prop :=
  ∀ (s : State) (lug : Half) (e : LugEntry), s.entry lug = some e →
    let t := s.sortLug lug
    (∀ i : Fin 64, e.board = some i →
      let b := s.boards[i]
      let p := b.committedPlan
      let n := (s.binFor b.bank p).1
      let code := (s.binFor b.bank p).2
      let count := satAdd s.bins[n].count 1
      let full : Bool := (s.capacityOf n).any fun cap => decide (cap ≤ count.toNat)
      let old := s.sortRing[ringSlot b.lug]
      let closes := fun r : Fin 8 => decide (s.runs.slots[r].state = .finishing ∧ s.runs.slots[r].inLine ≤ 1)
      let released : Bool := decide (s.banks.state b.bank = .held ∧ s.banks.refs b.bank ≤ 1)
      let done : Bool := decide (s.lineState = .drain ∧ s.logUnit.openLog = none ∧
        ∀ j : Fin 64, j ≠ i → s.boards[j].state = .free)
      let closed := (s.runOf b.run).toList.filterMap fun r =>
        if closes r then some (Notice.runClosed s.runs.slots[r].number r.val) else none
      let dropped := s.banks.pendingSwitch.toList.map fun x => Notice.bankSwitched x.1 .dropped
      t.entry lug = none ∧
      t.boards = s.boards.set i { b with state := .free, committed := some { p with bin := some n } } ∧
      t.bins = s.bins.set n
        { s.bins[n] with
          count := count
          lifetime := satAdd s.bins[n].lifetime 1
          state := if full then .full else s.bins[n].state } ∧
      t.sortRing = s.sortRing.set (ringSlot b.lug)
        ⟨.written, b.lug, true, n.val, p.grade, p.lc, p.wc, code⟩ ∧
      (s.runOf b.run = none → t.runs = s.runs) ∧
      (∀ r, s.runOf b.run = some r → ∀ g : Fin 8, g.val = p.grade →
        let x := s.runs.slots[r]
        let matrix := t.runs.slots[r].tally.matrix
        t.runs = { s.runs with
          slots := s.runs.slots.set r
            { x with
              state := if closes r then .closed else x.state
              inLine := x.inLine - 1
              tally :=
                { x.tally with
                  sorted := satAdd x.tally.sorted 1
                  pieces := x.tally.pieces.set g (satAdd x.tally.pieces[g] 1)
                  footageBy := x.tally.footageBy.set g (satAdd x.tally.footageBy[g] p.footage)
                  matrix := matrix
                  footage := satAdd x.tally.footage p.footage
                  value := satAdd x.tally.value p.value
                  recovery :=
                    if x.tally.litres = 0 then 0
                    else BitVec.ofNat 16
                      (min 65535 ((satAdd x.tally.footage p.footage).toNat / x.tally.litres.toNat)) } } } ∧
        (g = 7 → matrix = x.tally.matrix) ∧
        (∀ k : Fin 84, g ≠ 7 → 1 ≤ p.lc → p.lc ≤ 12 → k.val = 12 * g.val + (p.lc - 1) →
          matrix = x.tally.matrix.set k (satAdd x.tally.matrix[k] 1))) ∧
      (t.banks.refs b.bank = s.banks.refs b.bank - 1 ∧
        t.banks.refs b.bank.other = s.banks.refs b.bank.other ∧
        t.banks.state b.bank = (if released then .spare else s.banks.state b.bank) ∧
        t.banks.state b.bank.other = s.banks.state b.bank.other ∧
        t.banks.pendingSwitch = (if done then none else s.banks.pendingSwitch)) ∧
      (t.stats[(20 : Fin 24)] =
          (if old.state = .written then satAdd s.stats[(20 : Fin 24)] 1 else s.stats[(20 : Fin 24)]) ∧
        t.stats[(21 : Fin 24)] = (if code = 3 then satAdd s.stats[(21 : Fin 24)] 1 else s.stats[(21 : Fin 24)]) ∧
        ∀ k : Fin 24, k ∉ [(20 : Fin 24), 21] → t.stats[k] = s.stats[k]) ∧
      t.notices =
        (s.forEach
          ((if code = 3 then [.binOverflow b.lug (matrixBin s.shadow b.bank p).val] else []) ++
            (if full then [.binFull n.val count] else []) ++
            (if old.state = .written then [.sortOverrun old.lug b.lug] else []) ++ closed ++
            (if released then [.bankReleased b.bank b.lug] else []) ++
            (if done then dropped ++ [.lineIdle s.lc] else [])) State.raise).notices ∧
      (done = false →
        t.lugLine = s.lugLine.set (lugIndex lug) none ∧
        OnlyChanges [.lugLine, .boards, .bins, .sortRing, .runs, .stats, .banks, .notices, .stamps, .publications]
          s t) ∧
      (done = true →
        t.lineState = .idle ∧ (∀ k : Fin 64, t.lugLine[k] = none) ∧ t.held = [] ∧
        (s.path.initialRest = [] → t.stamp .stats = s.stamp .stats + 1) ∧
        OnlyChanges [.lineState, .held, .lugLine, .boards, .bins, .sortRing, .runs, .stats, .banks, .notices, .stamps,
          .publications] s t)) ∧
    (e.board = none →
      let old := s.sortRing[ringSlot lug]
      t.lugLine = s.lugLine.set (lugIndex lug) none ∧
      t.sortRing = s.sortRing.set (ringSlot lug) ⟨.written, lug, false, 0, 0, 0, 0, 0⟩ ∧
      (old.state = .written →
        t.stats = s.stats.set 20 (satAdd s.stats[(20 : Fin 24)] 1) ∧
        t.notices = (s.raise (.sortOverrun old.lug lug)).notices) ∧
      (old.state ≠ .written → OnlyChanges [.lugLine, .sortRing, .stamps, .publications] s t) ∧
      OnlyChanges [.lugLine, .sortRing, .stats, .notices, .stamps, .publications] s t)

/-! ### Scan heads and logs -/

/-- The lug window: how each test of Table 2-4 settles a frame; a dropped or skipped frame changes no board and no lug
entry (R32, R33). -/
def Obligations.LugWindow : Prop :=
  ∀ (s : State) (h : Fin 8) (f : Frame),
    let d := s.distance f.number
    let shut : Prop := s.windowW < d ∨ (s.entry f.number).map LugEntry.closed = some true
    (32768 ≤ d → s.lugWindow h f = (s, .droppedWrap)) ∧
    (d < 32768 → shut → s.lugWindow h f = (s, .droppedOld)) ∧
    (d < 32768 → ¬shut → s.running = false → s.lugWindow h f = (s, .skipped)) ∧
    (d < 32768 → ¬shut → s.running = true → s.entry f.number = none → s.lugWindow h f = (s, .droppedOld)) ∧
    (∀ e, d < 32768 → ¬shut → s.running = true → s.entry f.number = some e →
      (e.board = none → f.flag = false → s.lugWindow h f = (s, .skipped)) ∧
      (e.board = none → f.flag = true → s.lineState = .drain → s.lugWindow h f = (s, .skipped)) ∧
      (∀ i, e.board = none → f.flag = true → s.lineState = .run → s.freeBoard = some i →
        s.lugWindow h f = (s.openBoard e i).offerSlice h f i) ∧
      (∀ i, e.board = some i → s.lugWindow h f = s.offerSlice h f i))

/-- The opening of a board: the lowest-numbered FREE record, with its slot number, the lug, the outfeed run, the ACTIVE
bank and the entry's override, and empty measurement. The run of the outfeed run's number counts one board opened and one
more in line; it is the outfeed run itself where no other run in use has that number (R11, R34, R57). Where two runs in
use have it, the one in the lowest slot counts the board: the model's choice, log entry 23. -/
def Obligations.BoardOpens : Prop :=
  ∀ (s : State) (e : LugEntry) (i : Fin 64), s.entry e.lug = some e → s.freeBoard = some i →
    let t := s.openBoard e i
    (s.boards[i].state = .free ∧ ∀ j : Fin 64, j < i → s.boards[j].state ≠ .free) ∧
    t.boards = s.boards.set i
      { Board.blank with
        state := .measuring, slot := i, lug := e.lug, run := s.outfeedNumber, bank := s.banks.active, override := e.override } ∧
    t.entry e.lug = some { e with board := some i, override := none } ∧
    t.banks.refs s.banks.active = s.banks.refs s.banks.active + 1 ∧
    (s.runOf s.outfeedNumber = none → t.runs = s.runs) ∧
    (∀ r, s.runOf s.outfeedNumber = some r →
      let x := s.runs.slots[r]
      t.runs = { s.runs with
        slots := s.runs.slots.set r
          { x with inLine := x.inLine + 1, tally := { x.tally with opened := satAdd x.tally.opened 1 } } }) ∧
    (∀ r, s.runs.outfeed = some r → s.runs.slots[r].state ≠ .free →
      (∀ q : Fin 8, q ≠ r → s.runs.slots[q].state ≠ .free → s.runs.slots[q].number ≠ s.runs.slots[r].number) →
      s.runOf s.outfeedNumber = some r) ∧
    OnlyChanges [.boards, .lugLine, .runs, .banks, .stamps, .publications] s t

/-- A frame offered to a board: dropped with its slice index at or above N_h or already given; otherwise taken, with the
index in the head's slice set and each present cell entry accumulated, clamped, into its cell. Then its defect entries
are taken in entry order, as many as its defect count says, and the board is closed if that makes it ready, and else its
record is republished. A defect entry of a local cell above 5 or a kind above 7 is ignored and counted. Another one is a
defect at cell 6h + local cell: where the list holds its cell and kind the larger size stands, else it is inserted at its
place, and a full list refuses it: the board's overflow flag is set, with DEFECT_OVERFLOW if it was clear (R35, R37 to
R41). -/
def Obligations.SliceOffered : Prop :=
  (∀ (s : State) (h : Fin 8) (f : Frame) (i : Fin 64),
    (s.slicesPerLug h ≤ f.index → s.offerSlice h f i = (s, .droppedExtra)) ∧
    (f.index < s.slicesPerLug h → f.index ∈ s.boards[i].sliceSets[h] → s.offerSlice h f i = (s, .droppedDuplicate)) ∧
    (f.index < s.slicesPerLug h → f.index ∉ s.boards[i].sliceSets[h] →
      let t := (s.offerSlice h f i).1
      (s.offerSlice h f i).2 = .taken ∧
      t.boards[i].sliceSets = s.boards[i].sliceSets.set h (s.boards[i].sliceSets[h] ++ [f.index]) ∧
      (∀ (c : Fin 48) (j : Nat), j < 6 → c.val = 6 * h.val + j →
        let x := s.boards[i].acc[c]
        t.boards[i].acc[c] =
          match f.cells[j]? with
          | none => x
          | some e =>
            if e.present then ⟨x.present + 1, x.t + min e.t 60000, x.w + min e.w 60000, x.n + min e.n 60000⟩ else x) ∧
      (∀ c : Fin 48, c.val / 6 ≠ h.val → t.boards[i].acc[c] = s.boards[i].acc[c]) ∧
      ∃ u : State,
        (u.boards = s.boards.set i
            { s.boards[i] with sliceSets := t.boards[i].sliceSets, acc := t.boards[i].acc } ∧
          OnlyChanges [.boards] s u) ∧
        let v := u.forEach (f.defects.take f.defectCount) fun x e => x.takeDefect h i e
        t = if v.readyForClose v.boards[i] then v.closeLug v.boards[i].lug else v.publish .ingest (.board i))) ∧
  ∀ (s : State) (h : Fin 8) (i : Fin 64) (e : DefectEntry), s.DefectsOrdered →
    let b := s.boards[i]
    let t := s.takeDefect h i e
    let d : Defect := ⟨6 * h.val + e.localCell, e.kind, e.size⟩
    let same := fun x : Defect => x.cell = d.cell ∧ x.kind = d.kind
    let before := fun x y : Defect => x.cell < y.cell ∨ (x.cell = y.cell ∧ x.kind < y.kind)
    (5 < e.localCell ∨ 7 < e.kind →
      t.boards = s.boards.set i { b with ignored := satAdd b.ignored 1 } ∧ OnlyChanges [.boards] s t) ∧
    (e.localCell ≤ 5 → e.kind ≤ 7 →
      (∀ older x younger, b.defects = older ++ x :: younger → same x →
        t.boards = s.boards.set i { b with defects := older ++ { x with size := max x.size e.size } :: younger } ∧
        OnlyChanges [.boards] s t) ∧
      ((∀ x ∈ b.defects, ¬same x) → b.defects.length < 64 →
        ∃ older younger, b.defects = older ++ younger ∧ (∀ x ∈ older, before x d) ∧ (∀ x ∈ younger, before d x) ∧
          t.boards = s.boards.set i { b with defects := older ++ d :: younger } ∧ OnlyChanges [.boards] s t) ∧
      ((∀ x ∈ b.defects, ¬same x) → 64 ≤ b.defects.length →
        t.boards = s.boards.set i { b with overflow := true } ∧
        t.notices = (if b.overflow then s else s.raise (.defectOverflow b.lug i.val)).notices ∧
        OnlyChanges [.boards, .notices, .stamps, .publications] s t))

/-- Log assembly. A frame arrival on the log head in RUN, good, in sequence, of section 0 and without the end flag, with
no log open, as a whole command: the log opens with that section, the head expects the next sequence, the slot's marks
are cleared and the frame is counted as taken. A good log frame of an enabled head, in RUN or DRAIN: section 0 in RUN
closes an open log as TRUNCATED and opens the new one, in DRAIN closes it and is skipped; another section is dropped with
no log open, of another log, or not beyond the last index; above 95 it closes the log as TRUNCATED and is dropped; else
it is appended, with the sections before it held at the last one and counted as interpolated. A stored section is counted
as taken and then, at its end flag, closes the log. A close writes the log ring slot of its close count, adds the log to
the infeed run's tally and raises LOG_DONE; in DRAIN with no board in use the line is then IDLE (R5, R20, R21, R24, R28,
R31, R45 to R50, R53, R56, R139, R142; log entry 21 for the count of a frame against the close by truncation). -/
def Obligations.LogAssembly : Prop :=
  (∀ (s : State) (w : BusWrite) (slot : Fin 16) (o : Nat) (al : Bool), s.resetLow = false → s.lineState = .run →
      w.wf = true → s.offsetOf w.addr = some (o, al) → frameBase 8 slot + 0xC0 ≤ o →
      o + w.bytes.length ≤ frameBase 8 slot + 0x100 →
      covers (enabledBytes o w.bytes) (frameBase 8 slot + 0xF8) 8 = true →
      let m := writeBytes s.shadow (enabledBytes o w.bytes)
      let f := readFrame m (frameBase 8 slot)
      f.formed 8 (s.heads[(8 : Fin 9)].marks[slot] ||| 8) = true → f.checksum = f.sum →
      s.heads[(8 : Fin 9)].blocked = false → s.heads[(8 : Fin 9)].enabled = true →
      (∀ x, s.heads[(8 : Fin 9)].expected = some x → x = f.seq) → s.logUnit.openLog = none → f.index = 0 → f.flag = false →
      ∃ t, exec (.frameArrival w) s = .next t ∧ t.shadow = m ∧
        t.logUnit = { s.logUnit with openLog := some ⟨f.number, [(min f.dx 2000, min f.dy 2000)], 0⟩ } ∧
        t.heads = s.heads.set (8 : Fin 9)
          (Head.bump
            { s.heads[(8 : Fin 9)] with
              marks := s.heads[(8 : Fin 9)].marks.set slot 0, expected := some (f.seq + 1) } .framesTaken) ∧
        t.stats = s.stats.set 1 (satAdd s.stats[1] 1) ∧
        OnlyChanges [.shadow, .logUnit, .heads, .stats, .stamps, .publications, .event, .ports] s t) ∧
  (∀ (s : State) (f : Frame),
    let t := s.settleGood 8 f
    let d := (min f.dx 2000, min f.dy 2000)
    let counts := fun (u v : State) (k : HeadCounter) (n : Fin 24) =>
      v.heads = u.heads.set 8 (u.heads[(8 : Fin 9)].bump k) ∧ v.stats = u.stats.set n (satAdd u.stats[n] 1)
    let drops := fun (u : State) => counts u t .droppedOld 2 ∧ OnlyChanges [.heads, .stats] u t
    let skips := fun (u : State) => counts u t .skipped 6 ∧ OnlyChanges [.heads, .stats] u t
    let stores := fun (u : State) (x : OpenLog) =>
      ∃ v : State, v.logUnit = { u.logUnit with openLog := some x } ∧ counts u v .framesTaken 1 ∧
        OnlyChanges [.logUnit, .heads, .stats] u v ∧ t = if f.flag then v.closeLog x false else v
    s.heads[(8 : Fin 9)].enabled = true →
      (s.running = false → skips s) ∧
      (s.lineState = .run → f.index = 0 →
        (s.logUnit.openLog = none → stores s ⟨f.number, [d], 0⟩) ∧
        ∀ x, s.logUnit.openLog = some x → stores (s.closeLog x true) ⟨f.number, [d], 0⟩) ∧
      (s.lineState = .drain → f.index = 0 →
        (s.logUnit.openLog = none → skips s) ∧ ∀ x, s.logUnit.openLog = some x → skips (s.closeLog x true)) ∧
      (s.running = true → f.index ≠ 0 →
        (s.logUnit.openLog = none → drops s) ∧
        ∀ x, s.logUnit.openLog = some x →
          (f.number ≠ x.number ∨ f.index < x.sections.length → drops s) ∧
          (f.number = x.number → x.sections.length ≤ f.index → 95 < f.index → drops (s.closeLog x true)) ∧
          (f.number = x.number → x.sections.length ≤ f.index → f.index ≤ 95 → ∀ z, x.sections.getLast? = some z →
            stores s
              ⟨x.number, x.sections ++ List.replicate (f.index - x.sections.length) z ++ [d],
                x.interpolated + (f.index - x.sections.length)⟩))) ∧
  ∀ (s : State) (x : OpenLog) (truncated : Bool) (i : Fin 16), i.val = s.logUnit.closeCount.toNat % 16 →
    let t := s.closeLog x truncated
    let n := s.logUnit.closeCount + 1
    let run := (s.runs.infeed.map fun r => s.runs.slots[r].number).getD 0
    let z := x.record n run truncated
    let done : Bool := decide (s.lineState = .drain ∧ s.anyInUse = false)
    let dropped := s.banks.pendingSwitch.toList.map fun x => Notice.bankSwitched x.1 .dropped
    t.logUnit = ⟨none, n, s.logUnit.ring.set i z⟩ ∧
    (z.closeSeq = n ∧ z.number = x.number ∧ z.run = run ∧ z.sections = x.sections.length ∧
      z.interpolated = x.interpolated ∧ z.truncated = truncated ∧ z.length = 250 * x.sections.length ∧
      z.volume = x.volume) ∧
    (s.runs.infeed = none → t.runs = s.runs) ∧
    (∀ r, s.runs.infeed = some r →
      let y := s.runs.slots[r].tally
      let litres := satAdd y.litres x.volume
      t.runs = { s.runs with
        slots := s.runs.slots.set r
          { s.runs.slots[r] with
            tally :=
              { y with
                logs := satAdd y.logs 1
                litres := litres
                recovery :=
                  if litres = 0 then 0 else BitVec.ofNat 16 (min 65535 (y.footage.toNat / litres.toNat)) } } }) ∧
    t.notices =
      (s.forEach (.logDone x.number i.val :: if done then dropped ++ [.lineIdle s.lc] else []) State.raise).notices ∧
    (s.path.initialRest = [] → t.stamp (.log i) = s.stamp (.log i) + 1) ∧
    (done = false → OnlyChanges [.logUnit, .runs, .notices, .stamps, .publications] s t) ∧
    (done = true →
      t.lineState = .idle ∧ (∀ k : Fin 64, t.lugLine[k] = none) ∧ t.held = [] ∧
      t.banks = { s.banks with pendingSwitch := none } ∧
      (s.path.initialRest = [] → t.stamp .stats = s.stamp .stats + 1) ∧
      OnlyChanges [.lineState, .lugLine, .held, .logUnit, .runs, .banks, .notices, .stamps, .publications] s t)

/-- A frame arrival, of any head: the write that covers the trailer is captured and forwarded, the frame that its slot
then holds is checked with the slot's marks and the trailer block's, the marks are cleared, and the head's record is
republished once, last. Its checks: a frame on any head that fails its form check or its checksum sets and counts its
head's flag, with a notice if the flag was clear, and a board head that becomes blocked by it closes early every
MEASURING board that is then ready; where none is, nothing else changes. A frame of a blocked head is counted as skipped
and changes nothing else. A good frame is compared with the expected sequence, which then follows it: a difference sets
and counts GAP, with its notice if it was clear, and the frame goes on; that of a disabled head is counted as skipped and
goes no further, and that of another board head goes to the lug window, whose outcome is counted (R20 to R26, R28, R30 to
R32, R41; log entries: 7, any of the three rows that carry a write; 11 and 20, that the head's record is republished once
and last). -/
def Obligations.FrameChecks : Prop :=
  (∀ (s : State) (w : BusWrite) (c : Instr) (h : Fin 9) (slot : Fin 16) (o : Nat) (al : Bool), c ∈ writeRows w →
    s.resetLow = false → w.wf = true → s.offsetOf w.addr = some (o, al) → frameBase h slot + 0xC0 ≤ o →
    o + w.bytes.length ≤ frameBase h slot + 0x100 →
    covers (enabledBytes o w.bytes) (frameBase h slot + 0xF8) 8 = true →
    let f := readFrame (writeBytes s.shadow (enabledBytes o w.bytes)) (frameBase h slot)
    ∃ u : State,
      exec c s = .next ((u.settleArrival h slot f (s.heads[h].marks[slot] ||| 8)).publish .ingest (.head h)) ∧
      u.shadow = writeBytes s.shadow (enabledBytes o w.bytes) ∧ u.path.ports = s.forwarded o w ∧
      u.heads = s.heads.set h { s.heads[h] with marks := s.heads[h].marks.set slot 0 } ∧
      OnlyChanges [.shadow, .heads, .event, .ports] s u) ∧
  (∀ (s : State) (h : Fin 8) (k : Fin 9) (f : Frame), k.val = h.val → s.heads[k].enabled = true →
    let u := (s.lugWindow h f).1
    let outcome := (s.lugWindow h f).2
    let t := s.settleGood k f
    t.heads = u.heads.set k (u.heads[k].bump outcome.counter) ∧
    t.stats = u.stats.set outcome.stat.index (satAdd u.stats[outcome.stat.index] 1) ∧ OnlyChanges [.heads, .stats] u t) ∧
  ∀ (s : State) (h : Fin 9) (slot : Fin 16) (f : Frame) (written : BitVec 4),
    let x := s.heads[h]
    let t := s.settleArrival h slot f written
    let good : Prop := f.formed h written = true ∧ f.checksum = f.sum ∧ x.blocked = false
    let gap : Bool := x.expected.any fun e => decide (e ≠ f.seq)
    (∀ (k : HeadFlag) (y : Head) (n : Fin 24),
      ((k = .frame ∧ f.formed h written = false ∧ y = Head.bump { x with frame := true } .frameCount ∧ n = 7) ∨
        (k = .chk ∧ f.formed h written = true ∧ f.checksum ≠ f.sum ∧ y = Head.bump { x with chk := true } .chkCount ∧
          n = 8)) →
      t.heads = s.heads.set h y ∧ t.stats[n] = satAdd s.stats[n] 1 ∧
      (h.val < 8 → x.blocked = false → ∀ (i : Fin 64) (e : LugEntry), s.boards[i].state = .measuring →
        (s.setHead h y).readyForClose s.boards[i] = true → s.entry s.boards[i].lug = some e → e.board = some i →
        e.closed = false →
        t.boards[i].state ≠ .measuring ∧ (t.entry s.boards[i].lug).map LugEntry.closed = some true) ∧
      ((h = 8 ∨ x.blocked = true ∨
          ∀ i : Fin 64, s.boards[i].state = .measuring → (s.setHead h y).readyForClose s.boards[i] = false) →
        t.stats = s.stats.set n (satAdd s.stats[n] 1) ∧
        t.notices = (if x.flag k then s else s.raise (.headError h.val k slot.val)).notices ∧
        OnlyChanges [.heads, .stats, .notices, .stamps, .publications] s t)) ∧
    (f.formed h written = true → f.checksum = f.sum → x.blocked = true →
      t.heads = s.heads.set h (x.bump .skipped) ∧ t.stats = s.stats.set 6 (satAdd s.stats[6] 1) ∧
      OnlyChanges [.heads, .stats] s t) ∧
    (good →
      let u := s.checkSequence h slot f
      t = u.settleGood h f ∧
      u.heads = s.heads.set h
        { (if gap then Head.bump { x with gap := true } .gapCount else x) with expected := some (f.seq + 1) } ∧
      u.stats = (if gap then s.stats.set 9 (satAdd s.stats[9] 1) else s.stats) ∧
      u.notices = (if gap && !x.gap then s.raise (.headError h.val .gap slot.val) else s).notices ∧
      OnlyChanges [.heads, .stats, .notices, .stamps, .publications] s u ∧
      (x.enabled = false →
        t.heads = u.heads.set h (u.heads[h].bump .skipped) ∧ t.stats = u.stats.set 6 (satAdd u.stats[6] 1) ∧
        OnlyChanges [.heads, .stats] u t))

/-- The volume of a closed log in litres, and its end diameters (R54, R55). -/
def Obligations.ClosedLogFigures : Prop :=
  (∀ x : OpenLog,
    x.volume = ((x.sections.map fun d => d.1 * d.2).sum * 51472 * 250 / 65536 + 500000) / 1000000) ∧
  (∀ x : OpenLog, x.sections.length ≤ 96 → (∀ d ∈ x.sections, d.1 ≤ 2000 ∧ d.2 ≤ 2000) → x.volume ≤ 75398) ∧
  (∀ x : OpenLog, (∀ d ∈ x.sections, d.1 = 0 ∨ d.2 = 0) → x.volume = 0) ∧
  ∀ (number seq run : Half) (first : Nat × Nat) (rest : List (Nat × Nat)) (k : Nat) (trunc : Bool),
    let x : OpenLog := ⟨number, first :: rest, k⟩
    let last := (first :: rest).getLast (List.cons_ne_nil first rest)
    (x.record seq run trunc).smallEnd = min ((first.1 + first.2) / 2) ((last.1 + last.2) / 2) ∧
    (x.record seq run trunc).largeEnd = max ((first.1 + first.2) / 2) ((last.1 + last.2) / 2) ∧
    (rest = [] → (x.record seq run trunc).smallEnd = (x.record seq run trunc).largeEnd) ∧
    ((∀ d ∈ first :: rest, d.1 ≤ 2000 ∧ d.2 ≤ 2000) → (x.record seq run trunc).largeEnd ≤ 2000)

/-! ### Grading and the solver -/

/-- The footage of a segment, in milli-board-feet; 0 at grade 7 (R77). -/
def Obligations.SegmentFootage : Prop :=
  ∀ (m : List Host.Cell) (k : BankId) (g lc wc : Nat),
    (g ≤ 6 → segmentFootage m k g lc wc = (bankThickness m k * bankWidth m k wc * 2 * lc * 125 + 12) / 24) ∧
    (g = 7 → segmentFootage m k g lc wc = 0) ∧
    (bankThickness m k ≤ 32 → bankWidth m k wc ≤ 64 → lc ≤ 12 → segmentFootage m k g lc wc ≤ 256000)

/-- The grade of a cell, by its case: 7 if absent, the bank's unknown grade if unknown, and if known at least the grade
of each rule that fires and of each defect at the cell, and one of these or 0. A limit rule tests the cell's T, W or N
against the smaller and the larger of the two boundaries it names, by its condition, and a rule of no quantity never
fires. A defect has the smallest grade 0 to 6 whose limit admits its size, or 7. A segment evaluation: the forced grade,
or the largest grade of the segment's cells, and of the overflow grade under DEFECT_OVERFLOW, raised step by step while
the segment's defects are more than the limit of the grade reached, up to 7; the length code b - a; the width class of
the narrowest known cell, or of 60000; the entry of the value table, 0 at grade 7; and the footage (R65 to R67, R69, R71
to R77, Tables 4-2 and 4-3). -/
def Obligations.CellAndSegmentGrades : Prop :=
  (∀ (m : List Host.Cell) (k : BankId) (defects : List Defect) (c : Nat) (x : Cell),
    (x.present = false → cellGrade m k defects c x = 7) ∧
    (x.present = true → x.known = false → cellGrade m k defects c x = bankUnknownGrade m k) ∧
    (x.present = true → x.known = true →
      (∀ r, r < 16 → ruleFires m k (bankRule m k r) x = true → (bankRule m k r).grade ≤ cellGrade m k defects c x) ∧
      (∀ d ∈ defects, d.cell = c → defectGrade m k d ≤ cellGrade m k defects c x) ∧
      (cellGrade m k defects c x = 0 ∨
        (∃ r, r < 16 ∧ ruleFires m k (bankRule m k r) x = true ∧ cellGrade m k defects c x = (bankRule m k r).grade) ∨
        ∃ d ∈ defects, d.cell = c ∧ cellGrade m k defects c x = defectGrade m k d))) ∧
  (∀ (m : List Host.Cell) (k : BankId) (r : LimitRule) (x : Cell),
    (r.quantity = 0 → ruleFires m k r x = false) ∧
    ∀ v : Nat, ((r.quantity = 1 ∧ v = x.t) ∨ (r.quantity = 2 ∧ v = x.w) ∨ (r.quantity = 3 ∧ v = x.n)) →
      let boundary := fun i : Nat => field16 m (bankBase k + 8 * (r.quantity - 1) + 2 * i)
      let lo := min (boundary r.a) (boundary r.b)
      let hi := max (boundary r.a) (boundary r.b)
      let low : Prop := v < lo
      let mid : Prop := lo ≤ v ∧ v ≤ hi
      let high : Prop := hi < v
      (r.condition = 0 → ruleFires m k r x = false) ∧
      (r.condition = 1 → (ruleFires m k r x = true ↔ mid ∨ high)) ∧
      (r.condition = 2 → (ruleFires m k r x = true ↔ low ∨ high)) ∧
      (r.condition = 3 → (ruleFires m k r x = true ↔ low ∨ mid)) ∧
      (r.condition = 4 → ruleFires m k r x = true) ∧
      (r.condition = 5 → (ruleFires m k r x = true ↔ low)) ∧
      (r.condition = 6 → (ruleFires m k r x = true ↔ mid)) ∧
      (r.condition = 7 → (ruleFires m k r x = true ↔ high))) ∧
  (∀ (m : List Host.Cell) (k : BankId) (d : Defect),
    defectGrade m k d ≤ 7 ∧ (∀ g, g < defectGrade m k d → bankMaxSize m k d.kind g < d.size) ∧
    (defectGrade m k d ≤ 6 → d.size ≤ bankMaxSize m k d.kind (defectGrade m k d))) ∧
  ∀ (b : Board) (m : List Host.Cell) (forced : Option Nat) (x y : Fin 13), x < y →
    let e := b.evaluate m forced x.val y.val
    let inside := fun c : Nat => 4 * x.val ≤ c ∧ c < 4 * y.val
    let n := (b.defects.filter fun d => decide (inside d.cell)).length
    (∀ g, forced = some g → e.grade = g) ∧
    (forced = none → ∃ base : Nat,
      (∀ c : Fin 48, inside c.val → b.cells[c].grade ≤ base) ∧
      (b.overflow = true → bankOverflowGrade m b.bank ≤ base) ∧
      ((∃ c : Fin 48, inside c.val ∧ base = b.cells[c].grade) ∨
        (b.overflow = true ∧ base = bankOverflowGrade m b.bank)) ∧
      base ≤ e.grade ∧ (∀ g, base ≤ g → g < e.grade → g ≤ 6 ∧ bankMaxCount m b.bank g < n) ∧
      (e.grade ≤ 6 → n ≤ bankMaxCount m b.bank e.grade)) ∧
    e.lc = y.val - x.val ∧
    (∃ w : Nat,
      ((∃ c : Fin 48, inside c.val ∧ b.cells[c].known = true ∧ w = b.cells[c].w ∧
          ∀ j : Fin 48, inside j.val → b.cells[j].known = true → w ≤ b.cells[j].w) ∨
        ((∀ c : Fin 48, inside c.val → b.cells[c].known = false) ∧ w = 60000)) ∧
      e.wc = ((List.range 5).filter fun i => decide (bankWidthBoundary m b.bank i ≤ w)).length) ∧
    (e.grade ≤ 6 → e.value = field16 m (bankBase b.bank + 0x100 + 2 * (e.grade * 72 + (e.lc - 1) * 6 + e.wc))) ∧
    (6 < e.grade → e.value = 0) ∧ e.footage = segmentFootage m b.bank e.grade e.lc e.wc

/-- What a request takes: a shared credit, else the reserved credit of its own class, else none. The close task of a lug
event closes the lug at distance W + 1, and a board is ready for early close when every enabled head that is not blocked
has given its N_h slices. Measurement close of a lug: one already closed, or not in the line, is left as it is. An empty
lug is closed, and an override attached to it is discarded with OVR_NO_BOARD. A board lug is closed: each cell is reduced
(known where its head gave a slice; present, if known, where half of the slices or more show it, with rounded means; if
unknown, at or below the last cell known and present) and graded, the rough length ends at the last present cell, the
ZONE notices are raised in ascending rule, the FIRST request takes its credit and the board is QUEUED, or takes none and
the board is AWAITING at its lug's place, and the record is published once (R9, R12, R41 to R44, R65, R68, R70, R81 to
R83, R109). -/
def Obligations.MeasurementCloses : Prop :=
  (∀ (x : Solver) (i : Fin 64),
    (x.shared.length < 6 → ∀ c, x.take c i = some (.shared, { x with shared := x.shared ++ [i] })) ∧
    (6 ≤ x.shared.length →
      (x.reservedFirst = none → x.take .first i = some (.reservedFirst, { x with reservedFirst := some i })) ∧
      (x.reservedFirst ≠ none → x.take .first i = none) ∧
      (x.reservedResolve = none → x.take .resolve i = some (.reservedResolve, { x with reservedResolve := some i })) ∧
      (x.reservedResolve ≠ none → x.take .resolve i = none))) ∧
  (∀ s : State, s.lugTask .close = s.closeLug (s.lc - BitVec.ofNat 16 (s.windowW + 1))) ∧
  (∀ (s : State) (b : Board), s.readyForClose b = true ↔
    ∀ (h : Fin 8) (k : Fin 9), k.val = h.val → s.heads[k].enabled = true → s.heads[k].blocked = false →
      s.slicesPerLug h ≤ b.sliceSets[h].length) ∧
  ∀ (s : State) (lug : Half),
    let t := s.closeLug lug
    (s.entry lug = none → t = s) ∧
    ∀ e, s.entry lug = some e →
      (e.closed = true → t = s) ∧
      (e.closed = false → e.board = none →
        t.lugLine = s.lugLine.set (lugIndex lug) (some { e with closed := true, override := none }) ∧
        (e.override = none → OnlyChanges [.lugLine] s t) ∧
        (∀ o, e.override = some o → t.notices = (s.raise (.ovrNoBoard lug o)).notices) ∧
        OnlyChanges [.lugLine, .notices, .stamps, .publications] s t) ∧
      ∀ i : Fin 64, e.closed = false → e.board = some i →
        let b := s.boards[i]
        let y := t.boards[i]
        let slices := fun c : Fin 48 => (b.sliceSets[c.val / 6]'(by omega)).length
        let seen := fun c : Fin 48 => 1 ≤ slices c ∧ slices c ≤ 2 * b.acc[c].present
        t.lugLine = s.lugLine.set (lugIndex lug) (some { e with closed := true }) ∧
        (∀ c : Fin 48,
          let x := y.cells[c]
          let a := b.acc[c]
          x.reduced = true ∧ x.known = decide (1 ≤ slices c) ∧
          (seen c →
            x.present = true ∧ x.t = (a.t + a.present / 2) / a.present ∧ x.w = (a.w + a.present / 2) / a.present ∧
            x.n = (a.n + a.present / 2) / a.present) ∧
          (¬seen c → x.t = 0 ∧ x.w = 0 ∧ x.n = 0) ∧
          (x.known = true → ¬seen c → x.present = false) ∧
          (x.known = false → (x.present = true ↔ ∃ k : Fin 48, c < k ∧ seen k)) ∧
          x.grade = cellGrade s.shadow b.bank b.defects c.val x) ∧
        ((∀ c : Fin 48, y.cells[c].present = true → c.val < y.roughCells) ∧
          (y.roughCells ≠ 0 → ∃ c : Fin 48, c.val + 1 = y.roughCells ∧ y.cells[c].present = true)) ∧
        y = { b with cells := y.cells, roughCells := y.roughCells, request := some .first, state := y.state } ∧
        (∀ j, j ≠ i → t.boards[j] = s.boards[j]) ∧
        (s.solver.shared.length < 6 →
          y.state = .queued ∧ t.solver = { s.solver with shared := s.solver.shared ++ [i] } ∧ t.stats = s.stats) ∧
        (6 ≤ s.solver.shared.length → s.solver.reservedFirst = none →
          y.state = .queued ∧ t.solver = { s.solver with reservedFirst := some i } ∧
          t.stats = s.stats.set 14 (satAdd s.stats[(14 : Fin 24)] 1)) ∧
        (6 ≤ s.solver.shared.length → s.solver.reservedFirst ≠ none →
          y.state = .awaiting ∧ t.stats = s.stats.set 13 (satAdd s.stats[(13 : Fin 24)] 1) ∧
          ∃ older younger, s.solver.waiting = older ++ younger ∧
            t.solver = { s.solver with waiting := older ++ i :: younger } ∧
            (∀ j ∈ older, s.distance b.lug ≤ s.distance s.boards[j].lug) ∧
            ∀ j ∈ younger.head?, s.distance s.boards[j].lug < s.distance b.lug) ∧
        t.notices =
          (s.forEach
            ((List.range 16).filterMap fun r =>
              if (bankRule s.shadow b.bank r).notice then
                ((List.finRange 48).find? fun c =>
                  y.cells[c].present && y.cells[c].known && ruleFires s.shadow b.bank (bankRule s.shadow b.bank r)
                    y.cells[c]).map fun c => Notice.zone b.lug r c.val
              else none) State.raise).notices ∧
        (s.path.initialRest = [] → t.stamp (.board i) = s.stamp (.board i) + 1) ∧
        OnlyChanges [.lugLine, .boards, .solver, .stats, .notices, .stamps, .publications] s t

/-- The plan of a solve. From any candidates one is chosen, and from none none; it is one of those evaluated, and none of
them has a greater value, nor an equal value and a greater length code, nor both equal and a smaller saw a. A plan
carries the override and the saw mask of its solve. With no override, or under GRADE with its grade forced, it counts the
valid candidates: with none it is REMAN for NO_CANDIDATE, with all of value 0 REMAN for ZERO_VALUE, else PRODUCT of the
best one. Under TRIM it is of that one candidate: PRODUCT, REMAN for ZERO_VALUE, or, where the candidate is not valid,
REMAN for OVR_INVALID, for which a notice names the first condition that fails. Under REMAN it is REMAN for OVR_REMAN. A
REMAN plan has grade 7 and no segment, value or footage (R93 to R98). -/
def Obligations.PlanOfSolve : Prop :=
  (∀ xs : List (Nat × Evaluation), (bestOf xs).isSome = !xs.isEmpty) ∧
  (∀ (xs : List (Nat × Evaluation)) (p : Nat × Evaluation), bestOf xs = some p →
    p ∈ xs ∧ ∀ q ∈ xs, q.2.value < p.2.value ∨
      (q.2.value = p.2.value ∧ (q.2.lc < p.2.lc ∨ (q.2.lc = p.2.lc ∧ p.1 ≤ q.1)))) ∧
  ∀ (b : Board) (m : List Host.Cell) (mask : SawSet),
    let long := fun (x y : Fin 13) => bankMinLen m b.bank ≤ y.val - x.val
    let enabled := fun (x y : Fin 13) => mask.getLsbD x.val = true ∧ mask.getLsbD y.val = true
    let wood := fun (x y : Fin 13) => ∀ c : Fin 48, 4 * x.val ≤ c.val → c.val < 4 * y.val → b.cells[c].present = true
    let valid := fun (x y : Fin 13) => x < y ∧ long x y ∧ enabled x y ∧ wood x y
    let product := fun (p : Plan) (forced : Option Nat) (source : PlanSource) (x y : Fin 13) =>
      let e := b.evaluate m forced x.val y.val
      p.reason = none ∧ p.a = x.val ∧ p.b = y.val ∧ p.lc = y.val - x.val ∧ p.grade = e.grade ∧ p.wc = e.wc ∧
        p.value = e.value ∧ p.footage = e.footage ∧ p.source = source
    let reman := fun (p : Plan) (reason : RemanReason) (source : PlanSource) =>
      p.reason = some reason ∧ p.a = 0 ∧ p.b = 0 ∧ p.lc = 0 ∧ p.grade = 7 ∧ p.wc = 0 ∧ p.value = 0 ∧ p.footage = 0 ∧
        p.source = source
    (∀ o, (b.solve m o mask).overrideUsed = o ∧ (b.solve m o mask).maskUsed = mask) ∧
    (∀ (o : Option Override) (forced : Option Nat) (source : PlanSource),
      ((o = none ∧ forced = none ∧ source = .solved) ∨
        ∃ (station : Fin 8) (g : Fin 7), o = some ⟨station, .grade g⟩ ∧ forced = some g.val ∧ source = .override) →
      let p := b.solve m o mask
      let value := fun q : Fin 13 × Fin 13 => (b.evaluate m forced q.1.val q.2.val).value
      let code := fun q : Fin 13 × Fin 13 => q.2.val - q.1.val
      ∃ qs : List (Fin 13 × Fin 13), qs.Nodup ∧ (∀ q, q ∈ qs ↔ valid q.1 q.2) ∧ p.candidates = qs.length ∧
        (qs = [] → reman p .noCandidate source) ∧
        (qs ≠ [] → (∀ q ∈ qs, value q = 0) → reman p .zeroValue source) ∧
        ((∃ q ∈ qs, value q ≠ 0) →
          ∃ q ∈ qs, product p forced source q.1 q.2 ∧
            ∀ z ∈ qs, value z < value q ∨ (value z = value q ∧ (code z < code q ∨ (code z = code q ∧ q.1 ≤ z.1))))) ∧
    (∀ (station : Fin 8) (x y : Fin 13), x < y →
      let o : Option Override := some ⟨station, .trim x y⟩
      let p := b.solve m o mask
      let value := (b.evaluate m none x.val y.val).value
      (valid x y →
        p.candidates = 1 ∧ (value ≠ 0 → product p none .override x y) ∧ (value = 0 → reman p .zeroValue .override) ∧
        b.invalidNotice m o mask = none) ∧
      (¬valid x y →
        p.candidates = 0 ∧ reman p .ovrInvalid .ovrInvalid ∧
        ∃ condition, b.invalidNotice m o mask = some (.ovrInvalid b.lug station.val x.val y.val condition) ∧
          ((condition = 2 ∧ ¬long x y) ∨ (condition = 3 ∧ long x y ∧ ¬enabled x y) ∨
            (condition = 4 ∧ long x y ∧ enabled x y ∧ ¬wood x y)))) ∧
    (∀ station : Fin 8,
      let p := b.solve m (some ⟨station, .reman⟩) mask
      reman p .ovrReman .override ∧ p.candidates = 0) ∧
    ∀ o : Option Override, (∀ v x y, o = some v → v.action ≠ .trim x y) → b.invalidNotice m o mask = none

/-- A solve begins with the oldest QUEUED board: it is SOLVING, and its override and the saw mask are recorded (R86). -/
def Obligations.SolveBegins : Prop :=
  ∀ s : State, s.solver.inFlight = none → (∃ i : Fin 64, s.boards[i].state = .queued) →
    ∃ i t, exec .solveBegin s = .next t ∧ s.boards[i].state = .queued ∧
      (∀ j : Fin 64, s.boards[j].state = .queued → s.distance s.boards[j].lug ≤ s.distance s.boards[i].lug) ∧
      t.solver = { s.solver with inFlight := some ⟨i, s.boards[i].override, s.sawMask⟩ } ∧
      t.boards = s.boards.set i { s.boards[i] with state := .solving } ∧
      OnlyChanges [.solver, .boards, .stamps, .publications, .event, .ports] s t

/-- A solve completes: the plan is stored, the stale plan discarded, the request ended and its credit returned, the
board SOLVED and the completion counted, with the OVR_INVALID notice that the plan calls for; with no board waiting for a
credit nothing else changes (R84, R87, R97). -/
def Obligations.SolveCompletes : Prop :=
  ∀ (s : State) (v : Solve), s.solver.inFlight = some v →
    let b := s.boards[v.slot]
    ∃ t, exec .solveCompletion s = .next t ∧
      t.boards[v.slot].plan = some (b.solve s.shadow v.override v.mask) ∧ t.boards[v.slot].stale = none ∧
      t.boards[v.slot].request = none ∧ (v.slot ∉ s.solver.waiting → t.boards[v.slot].state = .solved) ∧
      t.solver.inFlight = none ∧
      (∀ n, b.invalidNotice s.shadow v.override v.mask = some n → t.notices = (s.raise n).notices) ∧
      (b.invalidNotice s.shadow v.override v.mask = none → t.notices = s.notices) ∧
      OnlyChanges [.solver, .boards, .stats, .notices, .stamps, .publications, .event, .ports] s t ∧
      (s.solver.waiting = [] →
        t.boards = s.boards.set v.slot
          { b with plan := some (b.solve s.shadow v.override v.mask), stale := none, request := none, state := .solved } ∧
        t.solver = { s.solver.giveBack v.slot with inFlight := none } ∧
        t.stats = s.stats.set 10 (satAdd s.stats[10] 1))

/-! ### Overrides -/

/-- A lug 1 to 32 ahead. A GRADE, TRIM or REMAN override with none held for the lug and room in the table is held at
its place in the order, and answered HELD; in a full table it is answered HELD_FULL, and nothing else changes. Where one
is held that does not outrank its station it replaces that one, with OVR_SUPERSEDED, and is answered HELD with the other
station. CANCEL from a station that the held one does not outrank removes the held one, if there is one, and is answered
ACCEPTED with its station (R104, R105, R106). -/
def Obligations.OverrideForFutureLug : Prop :=
  (∀ (s : State) (station : Fin 8) (lug : Half) (x : OverrideAction), s.Takes .override → s.running = true →
    65504 ≤ s.distance lug → trimOrdered (some x) →
    (s.heldFor lug = none → s.held.length < 8 →
      ∃ t, exec (overrideRow station lug (some x)) s = .next t ∧
        t.held = s.insertHeld ⟨lug, ⟨station, x⟩⟩ s.held ∧
        t.stats = s.stats.set 16 (satAdd s.stats[16] 1) ∧
        Answered s t .override (overrideAnswerBytes 1 0 s.lc 0xFF) ∧ OnlyChanges (.held :: overrideTraces) s t) ∧
    (s.heldFor lug = none → 8 ≤ s.held.length →
      ∃ t, exec (overrideRow station lug (some x)) s = .next t ∧ t.stats = s.stats.set 18 (satAdd s.stats[18] 1) ∧
        Answered s t .override (overrideAnswerBytes 7 0 s.lc 0xFF) ∧ OnlyChanges overrideTraces s t) ∧
    ∀ o, s.heldFor lug = some o → s.rank station ≤ s.rank o.station →
      ∃ t, exec (overrideRow station lug (some x)) s = .next t ∧
        t.held = (s.held.map fun y => if y.lug = lug then ⟨lug, ⟨station, x⟩⟩ else y) ∧
        t.notices = (s.raise (.ovrSuperseded lug o ⟨station, x⟩)).notices ∧
        t.stats = s.stats.set 16 (satAdd s.stats[16] 1) ∧
        Answered s t .override (overrideAnswerBytes 1 0 s.lc (BitVec.ofNat 8 o.station.val)) ∧
        OnlyChanges (.held :: .notices :: overrideTraces) s t) ∧
  ∀ (s : State) (station : Fin 8) (lug : Half), s.Takes .override → s.running = true → 65504 ≤ s.distance lug →
    s.rankPasses station (s.heldFor lug) = true →
    ∃ t, exec (.overrideCancel (BitVec.ofNat 8 station.val) lug) s = .next t ∧
      t.held = s.held.filter (fun y => decide (y.lug ≠ lug)) ∧
      t.stats = s.stats.set 16 (satAdd s.stats[16] 1) ∧
      Answered s t .override (overrideAnswerBytes 2 0 s.lc (stationByte (s.heldFor lug))) ∧
      OnlyChanges (.held :: overrideTraces) s t

/-- An override whose station ranks below the holder's, for a future lug, a lug with no board, a board before commit, or,
GRADE and REMAN, a COMMITTED board: OUTRANKED, with the holder's station, and nothing else changes (R105, R106, R108,
R110 to R112). -/
def Obligations.OverrideOutranked : Prop :=
  ∀ (s : State) (station : Fin 8) (lug : Half) (a : Option OverrideAction) (o : Override), s.Takes .override →
    s.running = true → trimOrdered a → s.rank o.station < s.rank station →
    ∀ seen : Byte,
    ((65504 ≤ s.distance lug ∧ s.heldFor lug = some o ∧ seen = 0) ∨
      (∃ e, s.distance lug < s.sortS ∧ s.distance lug < 32768 ∧ s.entry lug = some e ∧ e.board = none ∧
        e.closed = false ∧ e.override = some o ∧ seen = 0) ∨
      (∃ e i, s.distance lug < s.sortS ∧ s.distance lug < 32768 ∧ s.entry lug = some e ∧ e.board = some i ∧
        s.boards[i].state ≠ .committed ∧ s.boards[i].override = some o ∧ seen = s.boards[i].state.code) ∨
      (∃ e i, s.distance lug < s.sortS ∧ s.distance lug < 32768 ∧ s.entry lug = some e ∧ e.board = some i ∧
        s.boards[i].state = .committed ∧ (a = some .reman ∨ ∃ g, a = some (.grade g)) ∧
        s.boards[i].override = some o ∧ seen = 6)) →
    ∃ t, exec (overrideRow station lug a) s = .next t ∧ t.stats = s.stats.set 18 (satAdd s.stats[18] 1) ∧
      Answered s t .override (overrideAnswerBytes 9 seen s.lc (BitVec.ofNat 8 o.station.val)) ∧
      OnlyChanges overrideTraces s t

/-- An override for a lug in the line before commit, whose holder does not outrank the station. On a lug with no board,
not closed, it is attached to the entry and answered HELD; CANCEL removes the one there, if any, and is answered
ACCEPTED. On a board that is MEASURING, AWAITING, QUEUED, SOLVING or SOLVED it is attached to the record, or CANCEL
removes the one there, and the answer is ACCEPTED with the state seen; a CANCEL with none to remove changes nothing. A
replacement raises OVR_SUPERSEDED. A change on a SOLVING board abandons and restarts its solve: the board is QUEUED, with
its request and credit as they were, and the restart is counted. A change on a SOLVED board makes its plan the stale plan
and raises a RESOLVE request, which takes a shared credit, else the reserved RESOLVE credit, counted, and the board is
QUEUED, else none, counted, and the board is AWAITING at its lug's place. The record is republished once with all of it
(R82, R83, R85, R88, R105, R108, R110, R111, Tables 5-3 and 6-5). -/
def Obligations.OverrideBeforeCommit : Prop :=
  ∀ (s : State) (station : Fin 8) (lug : Half) (a : Option OverrideAction) (e : LugEntry), s.Takes .override →
    s.running = true → trimOrdered a → s.distance lug < s.sortS → s.distance lug < 32768 → s.entry lug = some e →
    (e.board = none → e.closed = false → s.rankPasses station e.override = true →
      ∃ t, exec (overrideRow station lug a) s = .next t ∧
        t.lugLine = s.lugLine.set (lugIndex lug) (some { e with override := a.map (Override.mk station) }) ∧
        t.notices = (s.forEach (supersededNotices lug e.override station a) State.raise).notices ∧
        t.stats = s.stats.set 16 (satAdd s.stats[16] 1) ∧
        Answered s t .override (overrideAnswerBytes (if a = none then 2 else 1) 0 s.lc (stationByte e.override)) ∧
        OnlyChanges (.lugLine :: .notices :: overrideTraces) s t) ∧
    ∀ i : Fin 64, e.board = some i →
      s.boards[i].state ∈ [BoardState.measuring, .awaiting, .queued, .solving, .solved] →
      s.rankPasses station s.boards[i].override = true →
      let b := s.boards[i]
      let y : Board := { b with override := a.map (Override.mk station) }
      let z : Board := { y with stale := b.plan, plan := none, request := some .resolve }
      let changes : Prop := a ≠ none ∨ b.override ≠ none
      let counted := s.stats.set 16 (satAdd s.stats[(16 : Fin 24)] 1)
      ∃ t, exec (overrideRow station lug a) s = .next t ∧
        t.notices = (s.forEach (supersededNotices lug b.override station a) State.raise).notices ∧
        Answered s t .override (overrideAnswerBytes 2 b.state.code s.lc (stationByte b.override)) ∧
        ((b.state ≠ .solving ∧ b.state ≠ .solved) ∨ ¬changes →
          t.boards = s.boards.set i y ∧ t.stats = counted ∧ OnlyChanges (.boards :: .notices :: overrideTraces) s t) ∧
        (b.state = .solving → changes →
          t.boards = s.boards.set i { y with state := .queued } ∧ t.solver = { s.solver with inFlight := none } ∧
          t.stats = counted.set 11 (satAdd s.stats[(11 : Fin 24)] 1)) ∧
        (b.state = .solved → changes →
          (s.solver.shared.length < 6 →
            t.boards = s.boards.set i { z with state := .queued } ∧
            t.solver = { s.solver with shared := s.solver.shared ++ [i] } ∧ t.stats = counted) ∧
          (6 ≤ s.solver.shared.length → s.solver.reservedResolve = none →
            t.boards = s.boards.set i { z with state := .queued } ∧
            t.solver = { s.solver with reservedResolve := some i } ∧
            t.stats = counted.set 14 (satAdd s.stats[(14 : Fin 24)] 1)) ∧
          (6 ≤ s.solver.shared.length → s.solver.reservedResolve ≠ none →
            t.boards = s.boards.set i { z with state := .awaiting } ∧
            t.stats = counted.set 13 (satAdd s.stats[(13 : Fin 24)] 1) ∧
            ∃ older younger, s.solver.waiting = older ++ younger ∧
              t.solver = { s.solver with waiting := older ++ i :: younger } ∧
              (∀ j ∈ older, s.distance b.lug ≤ s.distance s.boards[j].lug) ∧
              ∀ j ∈ younger.head?, s.distance s.boards[j].lug < s.distance b.lug)) ∧
        (changes → t.stamp (.board i) = s.stamp (.board i) + 1) ∧
        (¬changes → t.stamp (.board i) = s.stamp (.board i)) ∧
        OnlyChanges (.boards :: .solver :: .notices :: overrideTraces) s t

/-- A GRADE or REMAN override for a lug whose board is COMMITTED and whose holder does not outrank the station: it is
attached, with OVR_SUPERSEDED if it replaces one, a PRODUCT committed plan is recomputed at the grade, 7 for REMAN, with
source LATE, a REMAN one is left, and the answer is ACCEPTED_LATE (R78, R105, R112, R126). -/
def Obligations.LateOverrideRevises : Prop :=
  ∀ (s : State) (station : Fin 8) (lug : Half) (x : OverrideAction) (e : LugEntry) (i : Fin 64) (p : CommittedPlan)
    (g : Nat), s.Takes .override → s.running = true → s.distance lug < s.sortS → s.distance lug < 32768 →
    s.entry lug = some e → e.board = some i → s.boards[i].state = .committed → s.boards[i].committed = some p →
    s.rankPasses station s.boards[i].override = true →
    ((∃ k : Fin 7, x = .grade k ∧ g = k.val) ∨ (x = .reman ∧ g = 7)) →
    ∃ t, exec (overrideRow station lug (some x)) s = .next t ∧
      t.boards = s.boards.set i
        { s.boards[i] with
          override := some ⟨station, x⟩
          committed := some (if p.product then
            { p with
              grade := g
              value := if g ≤ 6 then bankValue s.shadow s.boards[i].bank g p.lc p.wc else 0
              footage := segmentFootage s.shadow s.boards[i].bank g p.lc p.wc
              source := .late }
            else p) } ∧
      t.trimRing = s.trimRing ∧ t.stats = s.stats.set 17 (satAdd s.stats[17] 1) ∧
      t.notices = (s.forEach (supersededNotices lug s.boards[i].override station (some x)) State.raise).notices ∧
      Answered s t .override (overrideAnswerBytes 3 6 s.lc (stationByte s.boards[i].override)) ∧
      OnlyChanges (.boards :: .notices :: overrideTraces) s t

/-- An override that the stage of its lug refuses, with other station NONE, and nothing else changes: TOO_LATE at or
beyond the sort position and for a lug not in the line; TOO_EARLY 33 lugs or more ahead; NO_BOARD for a lug closed with
no board; and TOO_LATE, with state seen COMMITTED, for TRIM and CANCEL on a COMMITTED board (R104, R109, R112, R113). -/
def Obligations.OverrideRefusedByStage : Prop :=
  ∀ (s : State) (station : Fin 8) (lug : Half) (a : Option OverrideAction) (code seen : Byte), s.Takes .override →
    s.running = true → trimOrdered a →
    ((code = 10 ∧ seen = 0 ∧ s.distance lug < 32768 ∧ (s.sortS ≤ s.distance lug ∨ s.entry lug = none)) ∨
      (code = 6 ∧ seen = 0 ∧ 32768 ≤ s.distance lug ∧ s.distance lug ≤ 65503) ∨
      (∃ e, code = 8 ∧ seen = 0 ∧ s.distance lug < s.sortS ∧ s.distance lug < 32768 ∧ s.entry lug = some e ∧
        e.board = none ∧ e.closed = true) ∨
      (∃ e i, code = 10 ∧ seen = 6 ∧ s.distance lug < s.sortS ∧ s.distance lug < 32768 ∧ s.entry lug = some e ∧
        e.board = some i ∧ s.boards[i].state = .committed ∧ (a = none ∨ ∃ x y, a = some (.trim x y)))) →
    ∃ t, exec (overrideRow station lug a) s = .next t ∧ t.stats = s.stats.set 18 (satAdd s.stats[18] 1) ∧
      Answered s t .override (overrideAnswerBytes code seen s.lc 0xFF) ∧ OnlyChanges overrideTraces s t

/-- An override with a station above 7, a grade above 6, saws out of order or above 12, or an unknown kind: BAD_FIELD in
RUN or DRAIN, NOT_RUNNING in IDLE, and nothing else changes (R103; log entry 16 for the answer's other station). -/
def Obligations.OverrideBadField : Prop :=
  ∀ (s : State) (station kind x y : Byte) (lug : Half) (c : Instr), s.Takes .override →
    ((c = .overrideGrade station lug x ∧ (8 ≤ station.toNat ∨ 7 ≤ x.toNat)) ∨
      (c = .overrideTrim station lug x y ∧ (8 ≤ station.toNat ∨ y.toNat ≤ x.toNat ∨ 13 ≤ y.toNat)) ∨
      (c = .overrideReman station lug ∧ 8 ≤ station.toNat) ∨
      (c = .overrideCancel station lug ∧ 8 ≤ station.toNat) ∨
      (c = .overrideUnknownKind kind station lug ∧ c.wf = true)) →
    ∃ t, exec c s = .next t ∧ t.stats = s.stats.set 18 (satAdd s.stats[18] 1) ∧
      Answered s t .override (overrideAnswerBytes (if s.running then 5 else 4) 0 s.lc 0xFF) ∧
      OnlyChanges overrideTraces s t

/-! ### Commands -/

/-- START_LINE in IDLE with a configuration and an ACTIVE bank that pass their checks: RUN, with the configuration in
force, the lug line empty, every bin 1 to 40 fixed and reassessed, and a run opened if none was in use (R2, R3, R132). -/
def Obligations.StartLineStarts : Prop :=
  ∀ s : State, s.Takes .command → s.lineState = .idle → configCheck s.shadow = none →
    bankCheck s.shadow s.banks.active = none →
    let c := readConfig s.shadow
    ∃ t, exec .startLine s = .next t ∧ t.lineState = .run ∧ t.config = some c ∧ (∀ i : Fin 64, t.lugLine[i] = none) ∧
      t.runs = (if s.runs.noneInUse then s.runs.open 0 else s.runs) ∧ t.bins[(0 : Fin 41)] = s.bins[(0 : Fin 41)] ∧
      (∀ (i : Fin 40) (n : Fin 41), n.val = i.val + 1 →
        t.bins[n] =
          { s.bins[n] with
            capacity := c.capacity[i]
            alternate := c.alternate[i]
            state :=
              if s.bins[n].state = .hold then .hold
              else if c.capacity[i] ≤ s.bins[n].count.toNat then .full else .opened }) ∧
      Answered s t .command (answerBytes 1 s.lc 0 0) ∧
      OnlyChanges ([.lineState, .config, .lugLine, .runs, .bins] ++ commandTraces) s t

/-- The line commands refused: START_LINE out of IDLE, DRAIN_LINE out of RUN and STOP_LINE out of RUN and DRAIN answer
WRONG_STATE; START_LINE answers the first failing item of the configuration, else of the ACTIVE bank; nothing else
changes (R2, R4, R6). -/
def Obligations.LineCommandsRefused : Prop :=
  ∀ (s : State) (c : Instr) (answer : List Byte), s.Takes .command →
    ((c = .startLine ∧ s.lineState ≠ .idle ∧ answer = answerBytes 2 s.lc 0 0) ∨
      (c = .drainLine ∧ s.lineState ≠ .run ∧ answer = answerBytes 2 s.lc 0 0) ∨
      (c = .stopLine ∧ s.running = false ∧ answer = answerBytes 2 s.lc 0 0) ∨
      (∃ item index, c = .startLine ∧ s.lineState = .idle ∧ configCheck s.shadow = some (item, index) ∧
        answer = answerBytes 4 s.lc item index) ∨
      (∃ item index, c = .startLine ∧ s.lineState = .idle ∧ configCheck s.shadow = none ∧
        bankCheck s.shadow s.banks.active = some (item, index) ∧ answer = answerBytes 5 s.lc item index)) →
    ∃ t, exec c s = .next t ∧ Answered s t .command answer ∧ OnlyChanges commandTraces s t

/-- DRAIN_LINE in RUN: DRAIN, or IDLE at once when no board is in use and no log is open, with the line and the held
overrides cleared and a pending switch dropped; the notices are then that of the dropped switch and LINE_IDLE (R4, R5,
R174). -/
def Obligations.DrainLineDrains : Prop :=
  ∀ s : State, s.Takes .command → s.lineState = .run →
    ∃ t, exec .drainLine s = .next t ∧ Answered s t .command (answerBytes 1 s.lc 0 0) ∧
      ((s.anyInUse = true ∨ s.logUnit.openLog ≠ none) →
        t.lineState = .drain ∧ OnlyChanges (.lineState :: commandTraces) s t) ∧
      (s.anyInUse = false → s.logUnit.openLog = none →
        t.lineState = .idle ∧ (∀ i : Fin 64, t.lugLine[i] = none) ∧ t.held = [] ∧
        t.banks = { s.banks with pendingSwitch := none } ∧
        t.notices =
          (s.forEach ((s.banks.pendingSwitch.toList.map fun x => Notice.bankSwitched x.1 .dropped) ++ [.lineIdle s.lc])
            State.raise).notices ∧
        OnlyChanges ([.lineState, .lugLine, .held, .banks, .notices] ++ commandTraces) s t)

/-- STOP_LINE in RUN or DRAIN: every board in use is lost and its record FREE with its request ended; each run counts its
losses and has that many boards less in line, and a FINISHING run that loses its last board is CLOSED; each bank has as
many references less as boards were lost from it, and a HELD bank with none left is SPARE; the held overrides, the lug
line and the open log are discarded, a pending switch is dropped, and the line is IDLE. The notices are one RUN_CLOSED
for each run closed, in ascending slot order of the boards whose loss closes them, one BANK_RELEASED for a bank released,
of which there is one at most where one bank is ACTIVE, then that of the dropped switch, and last LINE_IDLE (R6, R17, R52,
R60, R91, R141, R174, R175). A board's run is that of its run number, and where two runs in use have that number the one in the lowest slot takes the
losses: the model's choice, log entry 23. -/
def Obligations.StopLineStops : Prop :=
  ∀ s : State, s.Takes .command → s.running = true →
    let lostFrom := fun k : BankId => s.lossesWhere fun b => decide (b.bank = k)
    let lostIn := fun r : Fin 8 => s.lossesWhere fun b => decide (s.runOf b.run = some r)
    let closes := fun r : Fin 8 =>
      s.runs.slots[r].state = .finishing ∧ 0 < lostIn r ∧ s.runs.slots[r].inLine ≤ lostIn r
    let released := fun k : BankId => s.banks.state k = .held ∧ s.banks.refs k ≤ lostFrom k
    let lostUpTo := fun (r : Fin 8) (i : Fin 64) =>
      (s.slotsInUse.filter fun j => decide (j ≤ i ∧ s.runOf s.boards[j].run = some r)).length
    let closings := s.slotsInUse.filterMap fun i =>
      (s.runOf s.boards[i].run).bind fun r =>
        if s.runs.slots[r].state = .finishing ∧ lostUpTo r i = max 1 s.runs.slots[r].inLine then
          some (Notice.runClosed s.runs.slots[r].number r.val)
        else none
    let releases := ([.a, .b] : List BankId).filterMap fun k =>
      if s.banks.state k = .held ∧ s.banks.refs k ≤ lostFrom k then some (Notice.bankReleased k (s.lastLost k)) else none
    ∃ t, exec .stopLine s = .next t ∧ t.lineState = .idle ∧
      (∀ i : Fin 64, t.lugLine[i] = none ∧
        t.boards[i] =
          if s.boards[i].state = .free then s.boards[i] else { s.boards[i] with state := .free, request := none }) ∧
      (∀ r : Fin 8,
        let x := s.runs.slots[r]
        t.runs.slots[r].number = x.number ∧ t.runs.slots[r].inLine = x.inLine - lostIn r ∧
        t.runs.slots[r].tally = { x.tally with lost := satAdd x.tally.lost (lostIn r) } ∧
        (closes r → t.runs.slots[r].state = .closed) ∧ (¬closes r → t.runs.slots[r].state = x.state)) ∧
      (t.runs.queue = s.runs.queue ∧ t.runs.nextNumber = s.runs.nextNumber ∧ t.runs.infeed = s.runs.infeed ∧
        t.runs.outfeed = s.runs.outfeed) ∧
      (∀ k, t.banks.refs k = s.banks.refs k - lostFrom k ∧ (released k → t.banks.state k = .spare) ∧
        (¬released k → t.banks.state k = s.banks.state k)) ∧
      t.banks.pendingSwitch = none ∧
      t.held = [] ∧ t.solver = ⟨[], none, none, [], none⟩ ∧ t.logUnit = { s.logUnit with openLog := none } ∧
      t.notices =
        (s.forEach
          (closings ++ releases ++ (s.banks.pendingSwitch.toList.map fun x => .bankSwitched x.1 .dropped) ++
            [.lineIdle s.lc]) State.raise).notices ∧
      Answered s t .command (answerBytes 1 s.lc 0 0) ∧
      OnlyChanges ([.lineState, .lugLine, .boards, .solver, .held, .logUnit, .runs, .banks, .notices] ++ commandTraces) s t

/-- BANK_SWITCH to the SPARE bank that passes validation, with no switch pending: in IDLE it is made at once, with
BANK_SWITCHED MADE that names LC and the state of the bank that was ACTIVE; in RUN or DRAIN, for a lug 1 to 255 ahead, it
is pending (R171, R172). -/
def Obligations.BankSwitchAccepted : Prop :=
  ∀ (s : State) (bank lug : Half), s.Takes .command → bank.toNat ≤ 1 → s.banks.state (bankOf bank) = .spare →
    s.banks.pendingSwitch = none → bankCheck s.shadow (bankOf bank) = none →
    (s.running = true → 1 ≤ (lug - s.lc).toNat ∧ (lug - s.lc).toNat ≤ 255) →
    let old : BankState := if 0 < s.banks.refs (bankOf bank).other then .held else .spare
    ∃ t, exec (.bankSwitch bank lug) s = .next t ∧ OnlyChanges (.banks :: .notices :: commandTraces) s t ∧
      (s.running = false →
        t.banks.state (bankOf bank) = .active ∧ t.banks.state (bankOf bank).other = old ∧
        t.banks.refsA = s.banks.refsA ∧ t.banks.refsB = s.banks.refsB ∧ t.banks.pendingSwitch = none ∧
        t.notices = (s.raise (.bankSwitched (bankOf bank) (.made s.lc old))).notices ∧
        Answered s t .command (answerBytes 1 s.lc 1 0)) ∧
      (s.running = true →
        t.banks = { s.banks with pendingSwitch := some (bankOf bank, lug) } ∧ t.notices = s.notices ∧
        Answered s t .command (answerBytes 1 s.lc 2 lug.toNat))

/-- BANK_SWITCH refused by the first of its tests that fails, in their order; nothing else changes (R171). -/
def Obligations.BankSwitchRefused : Prop :=
  ∀ (s : State) (bank lug : Half) (answer : List Byte), s.Takes .command →
    let k := bankOf bank
    let far : Prop := s.running = true ∧ ((lug - s.lc).toNat = 0 ∨ 255 < (lug - s.lc).toNat)
    ((1 < bank.toNat ∧ answer = answerBytes 3 s.lc 0 0) ∨
      (bank.toNat ≤ 1 ∧ s.banks.state k = .active ∧ answer = answerBytes 3 s.lc 0 0) ∨
      (bank.toNat ≤ 1 ∧ s.banks.state k = .held ∧ answer = answerBytes 6 s.lc 0 0) ∨
      (bank.toNat ≤ 1 ∧ s.banks.state k = .spare ∧ s.banks.pendingSwitch ≠ none ∧ answer = answerBytes 7 s.lc 0 0) ∨
      (bank.toNat ≤ 1 ∧ s.banks.state k = .spare ∧ s.banks.pendingSwitch = none ∧ far ∧
        answer = answerBytes 3 s.lc 0 0) ∨
      (∃ item index, bank.toNat ≤ 1 ∧ s.banks.state k = .spare ∧ s.banks.pendingSwitch = none ∧ ¬far ∧
        bankCheck s.shadow k = some (item, index) ∧ answer = answerBytes 5 s.lc item index)) →
    ∃ t, exec (.bankSwitch bank lug) s = .next t ∧ Answered s t .command answer ∧ OnlyChanges commandTraces s t

/-- SAW_MASK: RANGE above 1FFFH; the mask in force again changes nothing. A new mask is in force. A solve in flight is
abandoned: its board is QUEUED, with its request and credit as they were, and the restart is counted. Then each SOLVED
board whose plan uses a saw outside the mask, oldest first, has its plan made the stale plan and raises a RESOLVE
request: the first take the shared credits that are free, the next the reserved RESOLVE credit if it is free, counted,
and the others none, counted, and are AWAITING at their lugs' places. Where there is neither, nothing else changes (R82,
R83, R85, R88, R89). -/
def Obligations.SawMaskSet : Prop :=
  ∀ (s : State) (saws : Half), s.Takes .command →
    let mask : SawSet := saws.setWidth 13
    let flown := s.solver.inFlight.map Solve.slot
    let older := fun i j : Fin 64 => s.distance s.boards[j].lug ≤ s.distance s.boards[i].lug
    ∃ t, exec (.sawMask saws) s = .next t ∧
      (0x1FFF < saws.toNat → Answered s t .command (answerBytes 3 s.lc 0 0) ∧ OnlyChanges commandTraces s t) ∧
      (saws.toNat ≤ 0x1FFF →
        t.sawMask = mask ∧ Answered s t .command (answerBytes 1 s.lc 0 0) ∧
        OnlyChanges ([.sawMask, .boards, .solver, .stats] ++ commandTraces) s t ∧
        (mask = s.sawMask → OnlyChanges commandTraces s t) ∧
        (s.solver.inFlight = none →
          (∀ (i : Fin 64) p, s.boards[i].state = .solved → s.boards[i].plan = some p → sawsWithin p.saws mask = true) →
          OnlyChanges (.sawMask :: commandTraces) s t)) ∧
      (saws.toNat ≤ 0x1FFF → mask ≠ s.sawMask →
        ∃ js : List (Fin 64), js.Nodup ∧ js.Pairwise older ∧
          (∀ j, j ∈ js ↔ flown ≠ some j ∧ s.boards[j].state = .solved ∧
            ∃ p, s.boards[j].plan = some p ∧ sawsWithin p.saws mask = false) ∧
          let shared := js.take (6 - s.solver.shared.length)
          let rest := js.drop (6 - s.solver.shared.length)
          let reserved := if s.solver.reservedResolve = none then rest.take 1 else []
          let waiters := if s.solver.reservedResolve = none then rest.drop 1 else rest
          (∀ j, flown = some j → t.boards[j] = { s.boards[j] with state := .queued }) ∧
          (∀ j ∈ js, t.boards[j] =
            { s.boards[j] with
              stale := s.boards[j].plan
              plan := none
              request := some .resolve
              state := if j ∈ waiters then .awaiting else .queued }) ∧
          (∀ j, flown ≠ some j → j ∉ js → t.boards[j] = s.boards[j]) ∧
          (t.solver.inFlight = none ∧ t.solver.shared = s.solver.shared ++ shared ∧
            t.solver.reservedFirst = s.solver.reservedFirst ∧
            t.solver.reservedResolve = (reserved.head? <|> s.solver.reservedResolve)) ∧
          (t.solver.waiting.Perm (s.solver.waiting ++ waiters) ∧
            (s.solver.waiting.Pairwise older → t.solver.waiting.Pairwise older)) ∧
          (t.stats[(11 : Fin 24)] = satAdd s.stats[(11 : Fin 24)] flown.toList.length ∧
            t.stats[(13 : Fin 24)] = satAdd s.stats[(13 : Fin 24)] waiters.length ∧
            t.stats[(14 : Fin 24)] = satAdd s.stats[(14 : Fin 24)] reserved.length ∧
            ∀ k : Fin 24, k ∉ [(11 : Fin 24), 13, 14] → t.stats[k] = s.stats[k]))

/-- HEAD_ENABLE: RANGE above 1FFH; otherwise each head is enabled as its bit says and keeps the rest of its channel, and
where no board head goes from enabled to disabled nothing else changes (R29, R41). -/
def Obligations.HeadEnableSet : Prop :=
  ∀ (s : State) (heads : Half), s.Takes .command →
    ∃ t, exec (.headEnable heads) s = .next t ∧
      (0x1FF < heads.toNat → Answered s t .command (answerBytes 3 s.lc 0 0) ∧ OnlyChanges commandTraces s t) ∧
      (heads.toNat ≤ 0x1FF →
        (∀ h : Fin 9, t.heads[h] = { s.heads[h] with enabled := heads.getLsbD h.val }) ∧
        Answered s t .command (answerBytes 1 s.lc 0 0) ∧
        OnlyChanges ([.heads, .lugLine, .boards, .solver, .stats, .notices] ++ commandTraces) s t ∧
        ((∀ h : Fin 9, h.val < 8 → s.heads[h].enabled = true → heads.getLsbD h.val = true) →
          OnlyChanges (.heads :: commandTraces) s t))

/-- RUN_NEW: with a FREE run slot the lowest-numbered one opens with the next run number and an empty tally, and is the
infeed run; with none, RUN_FULL (R58). -/
def Obligations.RunNewOpens : Prop :=
  ∀ s : State, s.Takes .command →
    (∀ r : Fin 8, s.runs.slots[r].state = .free → (∀ q : Fin 8, q < r → s.runs.slots[q].state ≠ .free) →
      ∃ t, exec .runNew s = .next t ∧
        t.runs =
          { slots := s.runs.slots.set r ⟨.opened, s.runs.nextNumber, 0, Tally.zero⟩
            queue := s.runs.queue ++ [r]
            nextNumber := if s.runs.nextNumber = 65535 then 1 else s.runs.nextNumber + 1
            infeed := some r
            outfeed := if s.runs.outfeed = none then some r else s.runs.outfeed } ∧
        Answered s t .command (answerBytes 1 s.lc 0 s.runs.nextNumber.toNat) ∧
        OnlyChanges (.runs :: commandTraces) s t) ∧
    ((∀ r : Fin 8, s.runs.slots[r].state ≠ .free) →
      ∃ t, exec .runNew s = .next t ∧ Answered s t .command (answerBytes 8 s.lc 0 0) ∧ OnlyChanges commandTraces s t)

/-- RUN_ADVANCE: the outfeed run is FINISHING, or CLOSED at once, with RUN_CLOSED, with no board of it in line, and the
next younger run is the outfeed run; with no next younger run, NO_NEXT_RUN (R59, R60). -/
def Obligations.RunAdvances : Prop :=
  ∀ s : State, s.Takes .command →
    (∀ r q : Fin 8, s.runs.outfeed = some r → nextInQueue r s.runs.queue = some q →
      ∃ t, exec .runAdvance s = .next t ∧ t.runs.outfeed = some q ∧ t.runs.queue = s.runs.queue ∧
        t.runs.infeed = s.runs.infeed ∧ t.runs.nextNumber = s.runs.nextNumber ∧
        t.runs.slots = s.runs.slots.set r
          { s.runs.slots[r] with state := if s.runs.slots[r].inLine = 0 then .closed else .finishing } ∧
        t.notices =
          (if s.runs.slots[r].inLine = 0 then s.raise (.runClosed s.runs.slots[r].number r.val) else s).notices ∧
        Answered s t .command (answerBytes 1 s.lc 0 t.runs.slots[q].number.toNat) ∧
        OnlyChanges (.runs :: .notices :: commandTraces) s t) ∧
    ((s.runs.outfeed = none ∨ ∃ r, s.runs.outfeed = some r ∧ nextInQueue r s.runs.queue = none) →
      ∃ t, exec .runAdvance s = .next t ∧ Answered s t .command (answerBytes 9 s.lc 0 0) ∧
        OnlyChanges commandTraces s t)

/-- BIN_HOLD: RANGE for bin 0 or above 40; otherwise the bin becomes HOLD, keeping its other fields, and is republished
if its state changed. A HOLD bin is not available, as a FULL one is not (R133). -/
def Obligations.BinHold : Prop :=
  (∀ (s : State) (n : Fin 41), n ≠ 0 → s.bins[n].state = .hold ∨ s.bins[n].state = .full → s.available n = false) ∧
  ∀ (s : State) (bin : Half), s.Takes .command →
    ((bin.toNat = 0 ∨ 40 < bin.toNat) →
      ∃ t, exec (.binHold bin) s = .next t ∧ Answered s t .command (answerBytes 3 s.lc 0 0) ∧
        Republishes [.status] s t ∧ OnlyChanges commandTraces s t) ∧
    ∀ n : Fin 41, n.val = bin.toNat → 1 ≤ n.val →
      ∃ t, exec (.binHold bin) s = .next t ∧ t.bins = s.bins.set n { s.bins[n] with state := .hold } ∧
        Answered s t .command (answerBytes 1 s.lc 0 0) ∧
        Republishes (if s.bins[n].state = .hold then [.status] else [.bin n, .status]) s t ∧
        OnlyChanges (.bins :: commandTraces) s t

/-- BIN_EMPTY: RANGE above 40; otherwise the bin's count is 0 and the bin OPEN, its lifetime total kept, and the record
republished (R134). -/
def Obligations.BinEmpty : Prop :=
  ∀ (s : State) (bin : Half), s.Takes .command →
    (40 < bin.toNat →
      ∃ t, exec (.binEmpty bin) s = .next t ∧ Answered s t .command (answerBytes 3 s.lc 0 0) ∧
        OnlyChanges commandTraces s t) ∧
    ∀ n : Fin 41, n.val = bin.toNat →
      ∃ t, exec (.binEmpty bin) s = .next t ∧
        t.bins = s.bins.set n { s.bins[n] with count := 0, state := .opened } ∧
        Answered s t .command (answerBytes 1 s.lc 0 0) ∧ Republishes [.bin n, .status] s t ∧
        OnlyChanges (.bins :: commandTraces) s t

/-- NOTICE_ROUTE: RANGE for kind 0, kind above 18 or route above 2; otherwise the kind's route becomes the route given
(R180). -/
def Obligations.NoticeRouteSet : Prop :=
  ∀ (s : State) (kind route : Half), s.Takes .command →
    ((kind.toNat = 0 ∨ 18 < kind.toNat ∨ 2 < route.toNat) →
      ∃ t, exec (.noticeRoute kind route) s = .next t ∧ Answered s t .command (answerBytes 3 s.lc 0 0) ∧
        OnlyChanges commandTraces s t) ∧
    ∀ k : Fin 18, kind.toNat = k.val + 1 → route.toNat ≤ 2 →
      ∃ t, exec (.noticeRoute kind route) s = .next t ∧
        t.routes = s.routes.set k
          (if route.toNat = 0 then .ring0 else if route.toNat = 1 then .ring1 else .none) ∧
        Answered s t .command (answerBytes 1 s.lc 0 0) ∧ OnlyChanges (.routes :: commandTraces) s t

/-- STATS_CLEAR: every counter of the statistics record becomes 0, the record is republished, and the answer is OK
(R146). -/
def Obligations.StatsCleared : Prop :=
  ∀ s : State, s.Takes .command →
    ∃ t, exec .statsClear s = .next t ∧ (∀ k : Fin 24, t.stats[k] = 0) ∧
      Answered s t .command (answerBytes 1 s.lc 0 0) ∧ Republishes [.stats, .status] s t ∧
      OnlyChanges (.stats :: commandTraces) s t

/-- A command entry whose code is none of the twelve: answered UNKNOWN, and nothing else changes (R166). -/
def Obligations.UnknownCommand : Prop :=
  ∀ (s : State) (code : Byte), s.Takes .command → (Instr.commandUnknown code).wf = true →
    ∃ t, exec (.commandUnknown code) s = .next t ∧ Answered s t .command (answerBytes 10 s.lc 0 0) ∧
      OnlyChanges commandTraces s t

/-! ### The memory path -/

/-- An upstream write that is not guarded is captured into the shadow where it is watched, and forwarded with memory's
answer; an answer that does not come before RESET_N goes low is not given. One outside the arena is forwarded at its own
address and has no other effect. One that covers no trailer and no producer count makes nothing more of it, but that a
write of a frame slot's block marks that block. A producer count more than 64 ahead of the consumer count is refused with
RING_ERROR and counted; a valid one waits in INIT, replacing one that waited, and out of INIT the ring's counts meet at
it: the entries between them are read from the shadow as the write left it and taken one after the other, oldest first,
and then the consumer count follows and the status block is published; none ahead takes and publishes nothing (R20, R148,
R149, R151, R159, R160, R164; log entry 7: any of the three rows that carry a write). -/
def Obligations.WatchedWriteCaptured : Prop :=
  (∀ (s : State) (w : BusWrite) (c : Instr), c ∈ writeRows w → s.resetLow = false → s.offsetOf w.addr = none →
    ∃ t, exec c s = .next t ∧
      t.path.ports = .forwardWrite w.addr w.bytes :: w.answer.toList.map (fun good => .masterAnswer good []) ∧
      OnlyChanges [.event, .ports] s t) ∧
  ∀ (s : State) (w : BusWrite) (c : Instr) (o : Nat) (al : Bool), c ∈ writeRows w → s.resetLow = false → w.wf = true →
    s.offsetOf w.addr = some (o, al) →
    let xs := enabledBytes o w.bytes
    ((∀ x ∈ xs, s.guardedArea x.1 = none ∧ areaOf x.1 ≠ some .frameRings) → covers xs 0x1800 2 = false →
      covers xs 0x2800 2 = false →
      ∃ t, exec c s = .next t ∧ t.shadow = s.captured o w ∧ t.path.ports = s.forwarded o w ∧
        OnlyChanges [.shadow, .event, .ports] s t) ∧
    (∀ (h : Fin 9) (slot : Fin 16) (k : Fin 4), frameBase h slot + 64 * k.val ≤ o →
      o + w.bytes.length ≤ frameBase h slot + 64 * (k.val + 1) → xs ≠ [] →
      covers xs (frameBase h slot + 0xF8) 8 = false →
      ∃ t, exec c s = .next t ∧ t.shadow = writeBytes s.shadow xs ∧ t.path.ports = s.forwarded o w ∧
        t.heads = s.heads.set h
          { s.heads[h] with marks := s.heads[h].marks.set slot (s.heads[h].marks[slot] ||| BitVec.ofNat 4 (2 ^ k.val)) } ∧
        OnlyChanges [.shadow, .heads, .event, .ports] s t) ∧
    ∀ ring : Ring, s.ArenaPlaced → covers xs ring.countOffset 2 = true →
      let count : Half := BitVec.ofNat 16 (field16 (s.captured o w) ring.countOffset)
      let consumer := (s.counts ring).consumer
      let entry := fun k : Nat =>
        let i := entryIndex (consumer + BitVec.ofNat 16 k)
        (i, ring.read (s.captured o w) i)
      ∃ t, exec c s = .next t ∧ t.path.ports = s.forwarded o w ∧
        (64 < (count - consumer).toNat →
          t.shadow = s.captured o w ∧ t.stats = s.stats.set 23 (satAdd s.stats[23] 1) ∧
          t.notices = (s.raise (.ringError ring.code count consumer)).notices ∧
          OnlyChanges [.shadow, .stats, .notices, .stamps, .publications, .event, .ports] s t) ∧
        ((count - consumer).toNat ≤ 64 → s.lineState = .init →
          t.shadow = s.captured o w ∧
          t.counts ring = { s.counts ring with pendingCount := if count = consumer then none else some count } ∧
          OnlyChanges [.shadow, ring.field, .event, .ports] s t) ∧
        ((count - consumer).toNat ≤ 64 → s.lineState ≠ .init →
          t.counts ring = ⟨count, count, none⟩ ∧
          (count = consumer → t.shadow = s.captured o w ∧ OnlyChanges [.shadow, ring.field, .event, .ports] s t) ∧
          (count ≠ consumer → ∃ u v : State,
            (u.shadow = s.captured o w ∧ u.counts ring = ⟨count, consumer, none⟩ ∧
              OnlyChanges [.shadow, ring.field, .event, .ports] s u) ∧
            v = u.forEach ((List.range (count - consumer).toNat).map entry) (fun x e => x.takeEntry e.1 e.2) ∧
            t = (v.setCounts ring { v.counts ring with consumer := count }).publish ring.owner .status))

/-- An upstream write with an enabled byte in a guarded area is discarded whole: no shadow byte changes and nothing is
forwarded. Where no consuming read of its block, accepted before it, waits for memory's answer, it is at once answered
good, counted and reported. Otherwise it waits for its place in the order of the block's traffic. After the answer to a
read, the guarded writes that wait for no other one are answered good, counted and reported, in the order accepted, and
where none waits nothing changes (R152 to R154; log entries: 7, any of the three rows that carry a write; 9, that the
answer to the master comes with the effect, and that a read's turn ends with memory's answer, good or error). -/
def Obligations.GuardedWriteDiscarded : Prop :=
  (∀ (s : State) (w : BusWrite) (c : Instr) (o : Nat) (al : Bool) (x : Host.Cell) (xs : List Host.Cell) (area : Area),
    c ∈ writeRows w → s.resetLow = false → s.offsetOf w.addr = some (o, al) → enabledBytes o w.bytes = x :: xs →
    s.guardHit (x :: xs) = some area →
    let n := Notice.guard area.code x.1 w.bytes.length
    let ahead := (s.path.openReads ++ s.path.heldReads).filter fun q =>
      s.consumes q && decide (s.memoryAddress q.addr / 64 = (s.path.arenaBase + x.1) / 64)
    ∃ t, exec c s = .next t ∧
      (ahead = [] →
        t.path.ports = [.masterAnswer true []] ∧ t.stats = s.stats.set 22 (satAdd s.stats[22] 1) ∧
        t.notices = (s.raise n).notices ∧
        OnlyChanges [.stats, .notices, .stamps, .publications, .event, .ports] s t) ∧
      (ahead ≠ [] →
        t.path.waitingGuards = s.path.waitingGuards ++ [⟨n, ahead⟩] ∧ t.path.ports = [] ∧
        OnlyChanges [.waitingGuards, .event, .ports] s t)) ∧
  ∀ (s : State) (r : BusRead),
    let gs := s.path.waitingGuards.map fun g => { g with ahead := g.ahead.erase r }
    let due := gs.filter fun g => decide (g.ahead = [])
    let t := s.takeGuards r
    t.path.waitingGuards = gs.filter (fun g => decide (g.ahead ≠ [])) ∧
    t.path.ports = s.path.ports ++ due.map (fun _ => .masterAnswer true []) ∧
    t.stats = s.stats.set 22 (satAdd s.stats[(22 : Fin 24)] due.length) ∧
    t.notices = (s.forEach (due.map WaitingGuard.notice) State.raise).notices ∧
    OnlyChanges [.waitingGuards, .ports, .stats, .notices, .stamps, .publications] s t ∧
    (s.path.waitingGuards = [] → t = s)

/-- An upstream read at its acceptance is held while a publication of the record whose header block it asks for is in
transit, which is one whose first write is issued, since it waits for no earlier publication of its record, its entry or
its block and command, and whose header write, the last, is not answered; it is forwarded otherwise, to be answered.
Memory's answer to a read forwarded passes back; with a good one the headers of Table 9-3 that the read covers through
the alias are handed to their owners, in ascending offset order, each with its 8 returned bytes, and last the guarded
writes that waited for the read take effect. An error, or a read that consumes nothing, hands nothing over. For a read
not forwarded and open there is no answer, and none that is good for a consuming read while a consuming read of its block
forwarded before it is open (R148, R149, R154, R156, R158, Tables 9-1 and 9-3; log entries 9, 10 and 15). -/
def Obligations.ReadsPassed : Prop :=
  (∀ (s : State) (r : BusRead) (good : Bool) (data : List Byte) (c : Instr), c ∈ readRows (.answer r good data) →
    s.resetLow = false →
    (r ∈ s.path.openReads → (good = true → s.inTurn r = true) →
      ∃ u v : State, exec c s = .next (v.takeGuards r) ∧ u.path.ports = [.masterAnswer good data] ∧
        u.path.openReads = s.path.openReads.erase r ∧ OnlyChanges [.openReads, .event, .ports] s u ∧
        (good = false ∨ s.consumes r = false → v = u) ∧
        ∀ o, good = true → s.offsetOf r.addr = some (o, true) →
          v = u.forEach (coveredHeaders o r.enables data) fun x y => x.handHeader y.1 y.2) ∧
    (r ∉ s.path.openReads ∨ (good = true ∧ s.inTurn r = false) →
      ∃ t, exec c s = .next t ∧ t.path.ports = [] ∧ OnlyChanges [.event, .ports] s t)) ∧
  (∀ (o : Nat) (enables : List Bool) (data : List Byte),
    ∃ ks : List Nat, ks.Pairwise (fun j k => j < k) ∧
      (∀ k, k ∈ ks ↔ (enables.drop k).take 8 = List.replicate 8 true ∧ consumingRecord (o + k) ≠ none) ∧
      coveredHeaders o enables data =
        ks.filterMap fun k => (consumingRecord (o + k)).map fun x => (x, (data.drop k).take 8)) ∧
  (∀ (a : Nat) (x : Record), consumingRecord a = some x ↔
    (∃ h : Fin 9, x = .head h ∧ a = 0x20000 + 0x40 * h.val) ∨
    (∃ i : Fin 8, x = .run i ∧ a = 0x50000 + 0x800 * i.val) ∨
    (∃ i : Fin 16, x = .trim i ∧ a = 0x40000 + 0x20 * i.val) ∨
    (∃ i : Fin 16, x = .sort i ∧ a = 0x41000 + 0x20 * i.val) ∨
    ∃ (n : Fin 2) (slot : Fin 32), x = .notice n slot ∧ a = 0x70000 + 0x200 * n.val + 0x10 * slot.val) ∧
  (∀ (s : State) (r : BusRead),
    (s.consumes r = true ↔ ∃ o k x, s.offsetOf r.addr = some (o, true) ∧
      (r.enables.drop k).take 8 = List.replicate 8 true ∧ consumingRecord (o + k) = some x) ∧
    (r ∈ s.path.openReads →
      (s.inTurn r = false ↔ s.consumes r = true ∧ ∃ earlier later, s.path.openReads = earlier ++ r :: later ∧
        r ∉ earlier ∧ ∃ q ∈ earlier, s.consumes q = true ∧
          s.memoryAddress q.addr / 64 = s.memoryAddress r.addr / 64)) ∧
    (s.holdsRead r = true ↔
      ∃ (o : Nat) (al : Bool) (x : Record) (k : Nat) (p : Publication),
        s.offsetOf r.addr = some (o, al) ∧ 0 < x.bodyBlocks ∧ x.offset = o / 64 * 64 ∧
        s.path.publications[k]? = some p ∧ x ∈ p.target.records ∧
        ∀ (j : Nat) (q : Publication), j < k → s.path.publications[j]? = some q →
          q.target ≠ p.target ∧ (∀ y ∈ p.target.records, y ∉ q.target.records) ∧
          ¬(q.owner = p.owner ∧ q.event = p.event))) ∧
  ∀ (s : State) (r : BusRead) (c : Instr), c ∈ readRows (.accept r) → s.resetLow = false →
    ∃ t, exec c s = .next t ∧
      (s.holdsRead r = true →
        t.path.heldReads = s.path.heldReads ++ [r] ∧ t.path.ports = [] ∧ OnlyChanges [.heldReads, .event, .ports] s t) ∧
      (s.holdsRead r = false →
        t.path.ports = [.forwardRead (s.memoryAddress r.addr) r.enables] ∧
        t.path.openReads = s.path.openReads ++ [r] ∧ OnlyChanges [.openReads, .event, .ports] s t)

/-- A returned header of a head status record: each flag that its flag byte showed set is cleared, a head that was
blocked and is no longer has its expected sequence unset, and the record is republished; where no flag is cleared, or the
record's initial write is not answered, nothing changes. A consuming read hands over every header it covers, in ascending
offset order, and then the guarded writes that waited for it take effect (R27, R28, R154, R158). The read is answered in
the turn of its block's traffic, as log entry 9 reads R154. -/
def Obligations.HeadRecordConsumed : Prop :=
  (∀ (s : State) (h : Fin 9) (header : List Byte),
    let x := s.heads[h]
    let shown := headerByte header 2
    let y : Head :=
      { x with
        frame := x.frame && !shown.getLsbD 0
        chk := x.chk && !shown.getLsbD 1
        gap := x.gap && !shown.getLsbD 2 }
    let t := s.handHeader (.head h) header
    (s.beforeInitialWrite (.head h) = true ∨ y = x → t = s) ∧
    (s.beforeInitialWrite (.head h) = false → y ≠ x →
      t.heads = s.heads.set h (if x.blocked = true ∧ y.blocked = false then { y with expected := none } else y) ∧
      Republishes [.head h] s t ∧ OnlyChanges [.heads, .stamps, .publications] s t)) ∧
  ∀ (s : State) (r : BusRead) (data : List Byte) (o : Nat), s.resetLow = false →
    r ∈ s.path.openReads → s.inTurn r = true → s.offsetOf r.addr = some (o, true) →
    ∃ u v : State, exec (.headStatusConsumingRead (.answer r true data)) s = .next (v.takeGuards r) ∧
      v = u.forEach (coveredHeaders o r.enables data) (fun z y => z.handHeader y.1 y.2) ∧
      u.path.ports = [.masterAnswer true data] ∧ u.path.openReads = s.path.openReads.erase r ∧
      OnlyChanges [.openReads, .event, .ports] s u

/-- A returned header of a run record: CLOSED, of the run that the slot still holds CLOSED, it frees the slot and takes
the run out of the run queue, and the record is republished; any other changes nothing. A consuming read hands over every
header it covers, in ascending offset order, and then the guarded writes that waited for it take effect (R62, R154,
R158). The read is answered in the turn of its block's traffic, as log entry 9 reads R154. -/
def Obligations.RunRecordConsumed : Prop :=
  (∀ (s : State) (i : Fin 8) (header : List Byte),
    let x := s.runs.slots[i]
    let frees : Prop := headerByte header 2 = 3 ∧ x.state = .closed ∧ headerHalf header 0 = x.number
    let t := s.handHeader (.run i) header
    (frees →
      t.runs = { s.runs with slots := s.runs.slots.set i { x with state := .free }, queue := s.runs.queue.erase i } ∧
      (s.path.initialRest = [] → Republishes [.run i] s t) ∧ OnlyChanges [.runs, .stamps, .publications] s t) ∧
    (¬frees → t = s)) ∧
  ∀ (s : State) (r : BusRead) (data : List Byte) (o : Nat), s.resetLow = false →
    r ∈ s.path.openReads → s.inTurn r = true → s.offsetOf r.addr = some (o, true) →
    ∃ u v : State, exec (.runRecordConsumingRead (.answer r true data)) s = .next (v.takeGuards r) ∧
      v = u.forEach (coveredHeaders o r.enables data) (fun z y => z.handHeader y.1 y.2) ∧
      u.path.ports = [.masterAnswer true data] ∧ u.path.openReads = s.path.openReads.erase r ∧
      OnlyChanges [.openReads, .event, .ports] s u

/-- A returned header of a trim or sort record: WRITTEN, of the lug that the slot still holds WRITTEN, it makes the slot
CONSUMED, and the record is republished; any other changes nothing. A consuming read hands over every header it covers,
so those of both slots of its block, in ascending offset order, and then the guarded writes that waited for it take
effect (R125, R130, R154, R158). The read is answered in the turn of its block's traffic, as log entry 9 reads R154. -/
def Obligations.TrimSortRecordConsumed : Prop :=
  (∀ (s : State) (i : Fin 16) (header : List Byte),
    (let x := s.trimRing[i]
      let consumes : Prop := headerByte header 0 = 1 ∧ x.state = .written ∧ headerHalf header 2 = x.lug
      let t := s.handHeader (.trim i) header
      (consumes →
        t.trimRing = s.trimRing.set i { x with state := .consumed } ∧
        (s.path.initialRest = [] → Republishes [.trim i] s t) ∧ OnlyChanges [.trimRing, .stamps, .publications] s t) ∧
      (¬consumes → t = s)) ∧
    let x := s.sortRing[i]
    let consumes : Prop := headerByte header 0 = 1 ∧ x.state = .written ∧ headerHalf header 2 = x.lug
    let t := s.handHeader (.sort i) header
    (consumes →
      t.sortRing = s.sortRing.set i { x with state := .consumed } ∧
      (s.path.initialRest = [] → Republishes [.sort i] s t) ∧ OnlyChanges [.sortRing, .stamps, .publications] s t) ∧
    (¬consumes → t = s)) ∧
  ∀ (s : State) (r : BusRead) (data : List Byte) (o : Nat), s.resetLow = false →
    r ∈ s.path.openReads → s.inTurn r = true → s.offsetOf r.addr = some (o, true) →
    ∃ u v : State, exec (.trimSortConsumingRead (.answer r true data)) s = .next (v.takeGuards r) ∧
      v = u.forEach (coveredHeaders o r.enables data) (fun z y => z.handHeader y.1 y.2) ∧
      u.path.ports = [.masterAnswer true data] ∧ u.path.openReads = s.path.openReads.erase r ∧
      OnlyChanges [.openReads, .event, .ports] s u

/-- A returned header of a notice slot: where it is that of the oldest notice of the ring, which is one of a kind in the
slot of the oldest sequence with that sequence, the notice leaves the ring, and the status block is republished; any
other slot or sequence, an empty ring, or a slot whose initial write is not answered, changes nothing. The removal of the
last one drives the ring's ATTN low. The removal of another leaves ATTN as it was, also where no notice still held has
been answered: that is the model's reading of R182, log entry 4. A consuming read hands over every header it covers, so
up to four slots in ascending order, and then the guarded writes that waited for it take effect (R154, R158, R177, R181,
R182). The read is answered in the turn of its block's traffic, as log entry 9 reads R154. -/
def Obligations.NoticeConsumed : Prop :=
  (∀ (s : State) (n : Fin 2) (slot : Fin 32) (header : List Byte),
    let x := s.notices[n]
    let oldest := x.next - BitVec.ofNat 16 x.held
    let removes : Prop := s.beforeInitialWrite (.notice n slot) = false ∧ 0 < x.held ∧ headerByte header 0 ≠ 0 ∧
      headerHalf header 2 = oldest ∧ slot = noticeSlot oldest
    let t := s.handHeader (.notice n slot) header
    (removes →
      t.notices = s.notices.set n { x with held := x.held - 1, attn := attn t n } ∧
      (x.held = 1 → attn t n = false) ∧ (1 < x.held → attn t n = attn s n) ∧
      (s.path.initialRest = [] → Republishes [.status] s t) ∧ OnlyChanges [.notices, .stamps, .publications] s t) ∧
    (¬removes → t = s)) ∧
  ∀ (s : State) (r : BusRead) (data : List Byte) (o : Nat), s.resetLow = false →
    r ∈ s.path.openReads → s.inTurn r = true → s.offsetOf r.addr = some (o, true) →
    ∃ u v : State, exec (.noticeConsumingRead (.answer r true data)) s = .next (v.takeGuards r) ∧
      v = u.forEach (coveredHeaders o r.enables data) (fun z y => z.handHeader y.1 y.2) ∧
      u.path.ports = [.masterAnswer true data] ∧ u.path.openReads = s.path.openReads.erase r ∧
      OnlyChanges [.openReads, .event, .ports] s u

/-- Memory answers an injected write, good and error alike. The publication goes on with its next write. After its last
write it is done: the reads held for its records are forwarded, those held for others stay, and the answer to the slot
write of a notice that its ring holds raises the ring's ATTN. An answer to a ring entry that waited for it is then
issued, and stands in the shadow. After a unit of the initial publication the next unit begins, and after the last one
INIT ends, with the line in IDLE where nothing pends (R154 to R157, R160, R162, R182). Log entries: 4, when ATTN rises;
10, which write is answered, and when an answer is ordered; 13, that the next unit's content is all of it the content at
the moment its first write begins, where R162 says the moment of each write. -/
def Obligations.InjectedWriteAnswered : Prop :=
  ∀ (s : State) (index k : Nat) (good : Bool) (p : Publication) (x : InjectedWrite) (rest : List InjectedWrite),
    s.path.inTransit[index]? = some k → s.path.publications[k]? = some p → p.writes = x :: rest →
    let issued := fun (t : State) (q : Publication) => q ∈ t.path.transiting ∧ q.waitsFor p = true
    ∃ t, exec (.injectedWriteAnswer index good) s = .next t ∧
      (rest ≠ [] →
        t.path.publications = s.path.publications.set k { p with writes := rest } ∧
        OnlyChanges [.publications, .event, .ports] s t) ∧
      (rest = [] →
        t.path.heldReads = s.path.heldReads.filter (fun r => !s.readWaits p r) ∧
        t.path.openReads = s.path.openReads ++ s.path.heldReads.filter (s.readWaits p) ∧
        t.path.ports = (s.path.heldReads.filter (s.readWaits p)).map fun r =>
          .forwardRead (s.memoryAddress r.addr) r.enables) ∧
      (rest = [] → (isInitial p = false ∨ s.path.initialRest ≠ []) →
        ∀ ring, t.notices[ring] = { s.notices[ring] with attn := attn t ring } ∧
          (attn t ring = true ↔ attn s ring = true ∨ ∃ r ∈ p.target.records, s.answersHeld ring p.stamp r)) ∧
      (rest = [] → isInitial p = false →
        t.path.publications = s.path.publications.eraseIdx k ∧
        (s.ShadowCanonical → ∀ q a y more, issued t q → q.target.answerOffset = some a → q.writes = y :: more →
          y.bytes.length = 8 → readBytes t.shadow a 8 = y.bytes) ∧
        (∀ b : Nat, (∀ q a, issued t q → q.target.answerOffset = some a → b < a ∨ a + 8 ≤ b) →
          readByte t.shadow b = readByte s.shadow b) ∧
        OnlyChanges [.publications, .heldReads, .openReads, .notices, .shadow, .event, .ports] s t) ∧
      (rest = [] → isInitial p = true → ∀ v vs, s.path.initialRest = v :: vs →
        t.path.initialRest = vs ∧
        t.path.publications = s.path.publications.eraseIdx k ++ [⟨.initial v, .path, s.path.event + 1, 0,
          s.beginEvent.unitWrites v⟩] ∧ t.lineState = s.lineState) ∧
      (rest = [] → isInitial p = true → s.path.initialRest = [] →
        (∀ ring, (s.counts ring).pendingCount = none) → t.lineState = .idle ∧ Republishes [.status, .stats] s t)

/-- A publication of a record: its stamp grows by 1 and its whole content at that stamp is handed on, block by block, the
body blocks first and the header block last. The content is as long as the record, begins with its header word, which
carries the stamp, and shows the status block's and the statistics' fields where chapter 12.5 places them (R155). That
unnamed bits of named bytes are 0, those of the saw mask at 10H of the status block among them, and that a run record
shows its own slot at all times, is the model's choice, log entry 22. -/
def Obligations.PublicationWritten : Prop :=
  (∀ (s : State) (owner : FunctionalBlock) (r : Record), r.initUnit ∉ s.path.initialRest →
    let t := s.publish owner r
    ∃ ws, t.path.publications = s.path.publications ++ [⟨.record r, owner, s.path.event, s.stamp r + 1, ws⟩] ∧
      ws.length = r.bodyBlocks + 1 ∧
      (∀ i, i < r.bodyBlocks → ws[i]? = some ⟨r.offset + 64 * (i + 1), bytesAt (t.image r) (64 * (i + 1)) 64⟩) ∧
      ws.getLast? = some ⟨r.offset, (t.image r).take 64⟩ ∧
      Republishes [r] s t ∧ OnlyChanges [.stamps, .publications] s t) ∧
  ∀ (s : State) (r : Record),
    (s.DefectsOrdered → (s.image r).length = r.size) ∧ (s.image r).take 8 = s.headerWord r ∧
    (r = .status →
      let runNumber := fun (p : Option (Fin 8)) => (p.map fun k => s.runs.slots[k].number.toNat).getD 0
      let xs := s.image r
      bytesAt xs 0x08 3 = [BitVec.ofNat 8 s.windowW, BitVec.ofNat 8 s.commitC, BitVec.ofNat 8 s.sortS] ∧
      bytesAt xs 0x0C 4 = leBytes 2 s.cmdRing.consumer.toNat ++ leBytes 2 s.ovrRing.consumer.toNat ∧
      bytesAt xs 0x10 2 = leBytes 2 s.sawMask.toNat ∧
      bytesAt xs 0x12 4 = leBytes 2 (runNumber s.runs.infeed) ++ leBytes 2 (runNumber s.runs.outfeed) ∧
      bytesAt xs 0x40 4 =
        [ s.banks.stateA.code, BitVec.ofNat 8 s.banks.refsA, s.banks.stateB.code, BitVec.ofNat 8 s.banks.refsB ] ∧
      (s.banks.pendingSwitch = none → bytesAt xs 0x44 1 = [0xFF]) ∧
      (∀ k lug, s.banks.pendingSwitch = some (k, lug) →
        bytesAt xs 0x44 1 = [k.code] ∧ bytesAt xs 0x46 2 = leBytes 2 lug.toNat) ∧
      ∀ n : Fin 2, bytesAt xs (0x48 + 8 * n.val) 6 =
        leBytes 2 s.notices[n].next.toNat ++ [BitVec.ofNat 8 s.notices[n].held, 0] ++ leBytes 2 s.notices[n].lost.toNat) ∧
    (r = .stats → ∀ i : Fin 24, bytesAt (s.image r) (8 + 4 * i.val) 4 = leBytes 4 s.stats[i].toNat)

/-! ### Notices and tallies -/

/-- The raising of a notice: by the route of its kind at that moment it is stored in ring 0, in ring 1, or nowhere, which
changes nothing. The storing of a notice in a ring: with room it takes the next sequence, after a LOST notice if losses
wait; a full ring counts it as lost, up to 65535. ATTN waits for memory's answer (R178, R179, R182). -/
def Obligations.NoticeStored : Prop :=
  (∀ (s : State) (x : Notice) (k : Fin 18), x.code = k.val + 1 →
    (s.routes[k] = .none → s.raise x = s) ∧
    (s.routes[k] = .ring0 → s.raise x = s.routeNotice 0 x) ∧
    (s.routes[k] = .ring1 → s.raise x = s.routeNotice 1 x)) ∧
  ∀ (s : State) (n : Fin 2) (x : Notice),
    let r := s.notices[n]
    let u := (s.routeNotice n x).notices[n]
    (r.held < 32 → r.lost = 0 →
      u.held = r.held + 1 ∧ u.next = r.next + 1 ∧ u.lost = 0 ∧
        u.slots = r.slots.set (noticeSlot r.next) (some (x, r.next))) ∧
    (r.held < 31 → r.lost ≠ 0 →
      u.held = r.held + 2 ∧ u.next = r.next + 2 ∧ u.lost = 0 ∧
        u.slots = (r.slots.set (noticeSlot r.next) (some (.lost n.val r.lost, r.next))).set
          (noticeSlot (r.next + 1)) (some (x, r.next + 1))) ∧
    (r.held = 31 → r.lost ≠ 0 →
      u.held = 32 ∧ u.next = r.next + 1 ∧ u.lost = 1 ∧
        u.slots = r.slots.set (noticeSlot r.next) (some (.lost n.val r.lost, r.next))) ∧
    (32 ≤ r.held → u = { r with lost := if r.lost = 65535 then r.lost else r.lost + 1 }) ∧
    u.attn = r.attn ∧ (∀ k, k ≠ n → (s.routeNotice n x).notices[k] = s.notices[k]) ∧
    OnlyChanges [.notices, .stamps, .publications] s (s.routeNotice n x)

/-- Recovery after a log close and after a sort: footage over litres, rounded down, at most 65535, and 0 with no litres;
computed from the totals as they stand after the event. A board opened or lost, a fallback and the closing of the run
leave it (R142). -/
def Obligations.Recovery : Prop :=
  (∀ x : RunSlot, x.addOpened.tally.recovery = x.tally.recovery ∧ x.addLost.tally.recovery = x.tally.recovery ∧
    x.addFallback.tally.recovery = x.tally.recovery) ∧
  (∀ (s : State) (r : Fin 8), (s.settleRun r).runs.slots[r].tally = s.runs.slots[r].tally) ∧
  ∀ (x : Tally) (g lc v f : Nat), ∀ y ∈ [x.addLog v, x.addSorted g lc v f],
    (y.litres = 0 → y.recovery = 0) ∧
    (y.litres ≠ 0 → y.recovery.toNat = min 65535 (y.footage.toNat / y.litres.toNat))

/-! ### Invariants -/

/-- Every step keeps the shadows in their one canonical form. -/
def Obligations.StepKeepsShadowCanonical : Prop :=
  ∀ s t : State, s.ShadowCanonical → step s = .next t → t.ShadowCanonical

/-- Every step keeps at most six shared credits held, at most 32 notices in a ring and ATTN low for a ring that holds
none, at most 8 held overrides, and every defect list in order and within 64 entries (R82, R177, R182, R100, R39). -/
def Obligations.StepKeepsBounds : Prop :=
  (∀ s t : State, s.CreditsBounded → step s = .next t → t.CreditsBounded) ∧
  (∀ s t : State, s.NoticesBounded → step s = .next t → t.NoticesBounded) ∧
  (∀ s t : State, s.HeldBounded → step s = .next t → t.HeldBounded) ∧
  (∀ s t : State, s.DefectsOrdered → step s = .next t → t.DefectsOrdered)

/-- Every step keeps exactly one bank ACTIVE, every lug entry at the index of its lug, and the arena base a multiple of
8 MiB (Table 10-6, R8, R149). -/
def Obligations.StepKeepsBankAndPlacement : Prop :=
  (∀ s t : State, s.OneActiveBank → step s = .next t → t.OneActiveBank) ∧
  (∀ s t : State, s.LugLinePlaced → step s = .next t → t.LugLinePlaced) ∧
  (∀ s t : State, s.ArenaPlaced → step s = .next t → t.ArenaPlaced)

/-- No command but RESET changes a byte of a bank that is ACTIVE or HELD (R150, R152, R153). -/
def Obligations.UsedBankKeepsContent : Prop :=
  ∀ (c : Instr) (s t : State) (k : BankId) (a : Nat), c ≠ .reset → exec c s = .next t → s.banks.state k ≠ .spare →
    bankBase k ≤ a → a < bankBase k + 0x1000 → readByte t.shadow a = readByte s.shadow a
end

