-- ==== Sys2Proof/Laws/Ages.lean ====
section
/-! SUPPORT. The lists of boards by age (R41, R86, R89): what they hold and in what order. -/

namespace Sys2Proof.Machine

/-- Board a's lug is at least as old as board b's. -/
def State.Older (s : State) (a b : Fin 64) : Prop := s.distance s.boards[b].lug ≤ s.distance s.boards[a].lug

/-- R83: a board inserted by age keeps the order, and is the one board added. -/
theorem insertByAge_ordered (s : State) (i : Fin 64) (js : List (Fin 64)) (h : js.Pairwise s.Older) :
    (s.insertByAge i js).Pairwise s.Older ∧ ∀ x, x ∈ s.insertByAge i js ↔ x = i ∨ x ∈ js := by
  induction js with
  | nil => simp [State.insertByAge]
  | cons j js ih =>
    rw [List.pairwise_cons] at h
    unfold State.insertByAge
    split
    · rename_i hlt
      refine ⟨?_, by simp⟩
      rw [List.pairwise_cons, List.pairwise_cons]
      refine ⟨?_, h⟩
      intro a ha
      rcases List.mem_cons.mp ha with rfl | ha
      · exact Nat.le_of_lt hlt
      · exact Nat.le_trans (h.1 a ha) (Nat.le_of_lt hlt)
    · rename_i hge
      obtain ⟨a, b⟩ := ih h.2
      refine ⟨?_, ?_⟩
      · rw [List.pairwise_cons]
        refine ⟨?_, a⟩
        intro x hx
        rcases (b x).mp hx with rfl | hx
        · exact Nat.le_of_not_lt hge
        · exact h.1 x hx
      · intro x
        simp only [List.mem_cons, b]
        tauto

/-- The boards by age: those that satisfy the test, oldest first. -/
theorem boardsByAge_spec (s : State) (p : Board → Bool) :
    (s.boardsByAge p).Pairwise s.Older ∧ ∀ x, x ∈ s.boardsByAge p ↔ p s.boards[x] = true := by
  have key : ∀ xs acc : List (Fin 64), acc.Pairwise s.Older →
      (xs.foldl (fun js i => s.insertByAge i js) acc).Pairwise s.Older ∧
        ∀ x, x ∈ xs.foldl (fun js i => s.insertByAge i js) acc ↔ x ∈ xs ∨ x ∈ acc := by
    intro xs
    induction xs with
    | nil => intro acc h; exact ⟨h, by simp⟩
    | cons y ys ih =>
      intro acc h
      obtain ⟨a, b⟩ := insertByAge_ordered s y acc h
      obtain ⟨c, d⟩ := ih _ a
      refine ⟨c, ?_⟩
      intro x
      rw [List.foldl_cons, d, b, List.mem_cons]
      tauto
  obtain ⟨a, b⟩ := key ((List.finRange 64).filter fun i => p s.boards[i]) [] List.Pairwise.nil
  refine ⟨a, ?_⟩
  intro x
  unfold State.boardsByAge
  rw [b]
  simp

/-- The boards by age depend on the boards and LC alone. -/
theorem boardsByAge_congr {s t : State} (hb : t.boards = s.boards) (hl : t.lc = s.lc) (p : Board → Bool) :
    t.boardsByAge p = s.boardsByAge p := by
  have hi : ∀ (i : Fin 64) js, t.insertByAge i js = s.insertByAge i js := by
    intro i js
    induction js with
    | nil => rfl
    | cons j js ih =>
      have e : ∀ k : Fin 64, t.distance t.boards[k].lug = s.distance s.boards[k].lug := fun k => by
        simp only [State.distance, hb, hl]
      unfold State.insertByAge
      rw [ih]
      by_cases h : s.distance s.boards[j].lug < s.distance s.boards[i].lug
      · rw [if_pos h, if_pos (by rw [e, e]; exact h)]
      · rw [if_neg h, if_neg (by rw [e, e]; exact h)]
  simp only [State.boardsByAge, hb, hi]

end Sys2Proof.Machine
end

