-- ==== Sys2Proof/Laws/Frames.lean ====
section
/-! SUPPORT. What each shared operation leaves unchanged: one lemma an operation, which says once which fields it can
change. Each lets a frame be read through the operation. -/

namespace Sys2Proof.Machine

theorem Same.trans {f : Field} {s t u : State} (h : Same f s t) (k : Same f t u) : Same f s u := by
  cases f <;> exact Eq.trans k h

theorem Same.symm {f : Field} {s t : State} (h : Same f s t) : Same f t s := by
  cases f <;> exact Eq.symm h

theorem OnlyChanges.refl (T : List Field) (s : State) : OnlyChanges T s s := fun f _ => by cases f <;> rfl

@[simp] theorem onlyChanges_self (T : List Field) (s : State) : OnlyChanges T s s ↔ True :=
  iff_true_intro (OnlyChanges.refl T s)

theorem OnlyChanges.trans {T : List Field} {s t u : State} (h : OnlyChanges T s t) (k : OnlyChanges T t u) :
    OnlyChanges T s u :=
  fun f hf => (h f hf).trans (k f hf)

theorem OnlyChanges.mono {A T : List Field} {s t : State} (h : OnlyChanges A s t) (hA : ∀ f ∈ A, f ∈ T) :
    OnlyChanges T s t :=
  fun f hf => h f fun ha => hf (hA f ha)

/-- A step that changes only what T lists does not change whether t agrees with s outside T. -/
theorem OnlyChanges.iff_of {A T : List Field} {s t u : State} (h : OnlyChanges A t u) (hA : ∀ f ∈ A, f ∈ T) :
    OnlyChanges T s u ↔ OnlyChanges T s t :=
  ⟨fun k f hf => (k f hf).trans (h f fun ha => hf (hA f ha)).symm, fun k => k.trans (h.mono hA)⟩

@[simp] theorem onlyChanges_forEach {α : Type} {T : List Field} {s t : State} {xs : List α} {f : State → α → State}
    (h : ∀ u x, OnlyChanges T u (f u x)) : OnlyChanges T s (t.forEach xs f) ↔ OnlyChanges T s t := by
  induction xs generalizing t with
  | nil => exact Iff.rfl
  | cons x xs ih => exact (ih (t := f t x)).trans (OnlyChanges.iff_of (h t x) fun _ h => h)

@[simp] theorem setEntry_frame {T : List Field} {s t : State} (n : Half) (e : Option LugEntry)
    (hT : ∀ f ∈ ([.lugLine] : List Field), f ∈ T) :
    OnlyChanges T s (t.setEntry n e) ↔ OnlyChanges T s t :=
  OnlyChanges.iff_of (A := [.lugLine]) (by intro f hf; cases f <;> first | rfl | (simp at hf)) hT

@[simp] theorem setBoard_frame {T : List Field} {s t : State} (i : Fin 64) (b : Board)
    (hT : ∀ f ∈ ([.boards] : List Field), f ∈ T) :
    OnlyChanges T s (t.setBoard i b) ↔ OnlyChanges T s t :=
  OnlyChanges.iff_of (A := [.boards]) (by intro f hf; cases f <;> first | rfl | (simp at hf)) hT

@[simp] theorem setHead_frame {T : List Field} {s t : State} (h : Fin 9) (x : Head)
    (hT : ∀ f ∈ ([.heads] : List Field), f ∈ T) :
    OnlyChanges T s (t.setHead h x) ↔ OnlyChanges T s t :=
  OnlyChanges.iff_of (A := [.heads]) (by intro f hf; cases f <;> first | rfl | (simp at hf)) hT

@[simp] theorem setRun_frame {T : List Field} {s t : State} (r : Fin 8) (x : RunSlot)
    (hT : ∀ f ∈ ([.runs] : List Field), f ∈ T) :
    OnlyChanges T s (t.setRun r x) ↔ OnlyChanges T s t :=
  OnlyChanges.iff_of (A := [.runs]) (by intro f hf; cases f <;> first | rfl | (simp at hf)) hT

@[simp] theorem setTrim_frame {T : List Field} {s t : State} (i : Fin 16) (x : TrimSlot)
    (hT : ∀ f ∈ ([.trimRing] : List Field), f ∈ T) :
    OnlyChanges T s (t.setTrim i x) ↔ OnlyChanges T s t :=
  OnlyChanges.iff_of (A := [.trimRing]) (by intro f hf; cases f <;> first | rfl | (simp at hf)) hT

@[simp] theorem setSort_frame {T : List Field} {s t : State} (i : Fin 16) (x : SortSlot)
    (hT : ∀ f ∈ ([.sortRing] : List Field), f ∈ T) :
    OnlyChanges T s (t.setSort i x) ↔ OnlyChanges T s t :=
  OnlyChanges.iff_of (A := [.sortRing]) (by intro f hf; cases f <;> first | rfl | (simp at hf)) hT

@[simp] theorem setBin_frame {T : List Field} {s t : State} (n : Fin 41) (x : Bin)
    (hT : ∀ f ∈ ([.bins] : List Field), f ∈ T) :
    OnlyChanges T s (t.setBin n x) ↔ OnlyChanges T s t :=
  OnlyChanges.iff_of (A := [.bins]) (by intro f hf; cases f <;> first | rfl | (simp at hf)) hT

@[simp] theorem setNotices_frame {T : List Field} {s t : State} (n : Fin 2) (x : NoticeRing)
    (hT : ∀ f ∈ ([.notices] : List Field), f ∈ T) :
    OnlyChanges T s (t.setNotices n x) ↔ OnlyChanges T s t :=
  OnlyChanges.iff_of (A := [.notices]) (by intro f hf; cases f <;> first | rfl | (simp at hf)) hT

@[simp] theorem setSolver_frame {T : List Field} {s t : State} (x : Solver)
    (hT : ∀ f ∈ ([.solver] : List Field), f ∈ T) :
    OnlyChanges T s (t.setSolver x) ↔ OnlyChanges T s t :=
  OnlyChanges.iff_of (A := [.solver]) (by intro f hf; cases f <;> first | rfl | (simp at hf)) hT

@[simp] theorem setPath_frame {T : List Field} {s t : State} (x : Path)
    (hT : ∀ f ∈ ([.arenaBase, .stamps, .publications, .initialRest, .heldReads, .openReads, .waitingGuards, .event, .ports] : List Field), f ∈ T) :
    OnlyChanges T s (t.setPath x) ↔ OnlyChanges T s t :=
  OnlyChanges.iff_of (A := [.arenaBase, .stamps, .publications, .initialRest, .heldReads, .openReads, .waitingGuards, .event, .ports]) (by intro f hf; cases f <;> first | rfl | (simp at hf)) hT

@[simp] theorem setShadow_frame {T : List Field} {s t : State} (m : List Host.Cell)
    (hT : ∀ f ∈ ([.shadow] : List Field), f ∈ T) :
    OnlyChanges T s (t.setShadow m) ↔ OnlyChanges T s t :=
  OnlyChanges.iff_of (A := [.shadow]) (by intro f hf; cases f <;> first | rfl | (simp at hf)) hT

@[simp] theorem setBanks_frame {T : List Field} {s t : State} (x : Banks)
    (hT : ∀ f ∈ ([.banks] : List Field), f ∈ T) :
    OnlyChanges T s (t.setBanks x) ↔ OnlyChanges T s t :=
  OnlyChanges.iff_of (A := [.banks]) (by intro f hf; cases f <;> first | rfl | (simp at hf)) hT

@[simp] theorem setLogUnit_frame {T : List Field} {s t : State} (x : LogUnit)
    (hT : ∀ f ∈ ([.logUnit] : List Field), f ∈ T) :
    OnlyChanges T s (t.setLogUnit x) ↔ OnlyChanges T s t :=
  OnlyChanges.iff_of (A := [.logUnit]) (by intro f hf; cases f <;> first | rfl | (simp at hf)) hT

@[simp] theorem setLineState_frame {T : List Field} {s t : State} (x : LineState)
    (hT : ∀ f ∈ ([.lineState] : List Field), f ∈ T) :
    OnlyChanges T s (t.setLineState x) ↔ OnlyChanges T s t :=
  OnlyChanges.iff_of (A := [.lineState]) (by intro f hf; cases f <;> first | rfl | (simp at hf)) hT

@[simp] theorem beginEvent_frame {T : List Field} {s t : State}
    (hT : ∀ f ∈ ([.event, .ports] : List Field), f ∈ T) :
    OnlyChanges T s t.beginEvent ↔ OnlyChanges T s t :=
  OnlyChanges.iff_of (A := [.event, .ports]) (by intro f hf; cases f <;> first | rfl | (simp at hf)) hT

@[simp] theorem emit_frame {T : List Field} {s t : State} (e : PortEvent)
    (hT : ∀ f ∈ ([.ports] : List Field), f ∈ T) :
    OnlyChanges T s (t.emit e) ↔ OnlyChanges T s t :=
  OnlyChanges.iff_of (A := [.ports]) (by intro f hf; cases f <;> first | rfl | (simp at hf)) hT

@[simp] theorem bump_frame {T : List Field} {s t : State} (k : Stat)
    (hT : ∀ f ∈ ([.stats] : List Field), f ∈ T) :
    OnlyChanges T s (t.bump k) ↔ OnlyChanges T s t :=
  OnlyChanges.iff_of (A := [.stats]) (by intro f hf; cases f <;> first | rfl | (simp at hf)) hT

@[simp] theorem countFrame_frame {T : List Field} {s t : State} (h : Fin 9) (o : FrameOutcome)
    (hT : ∀ f ∈ ([.heads, .stats] : List Field), f ∈ T) :
    OnlyChanges T s (t.countFrame h o) ↔ OnlyChanges T s t :=
  OnlyChanges.iff_of (A := [.heads, .stats]) (by
    simp only [State.countFrame]
    all_goals (try simp)) hT

@[simp] theorem enqueue_frame {T : List Field} {s t : State} (p : Publication)
    (hT : ∀ f ∈ ([.publications] : List Field), f ∈ T) :
    OnlyChanges T s (t.enqueue p) ↔ OnlyChanges T s t :=
  OnlyChanges.iff_of (A := [.publications]) (by
    simp only [State.enqueue]
    all_goals (intro f hf; cases f <;> first | rfl | (simp at hf))) hT

@[simp] theorem publish_frame {T : List Field} {s t : State} (owner : FunctionalBlock) (r : Record)
    (hT : ∀ f ∈ ([.stamps, .publications] : List Field), f ∈ T) :
    OnlyChanges T s (t.publish owner r) ↔ OnlyChanges T s t :=
  OnlyChanges.iff_of (A := [.stamps, .publications]) (by
    simp only [State.publish]
    repeat' split
    all_goals (try simp)
    all_goals (intro f hf; cases f <;> first | rfl | (simp at hf))) hT

@[simp] theorem writeAnswer_frame {T : List Field} {s t : State} (owner : FunctionalBlock) (target : PubTarget) (entryOffset : Nat) (bytes : List Byte)
    (hT : ∀ f ∈ ([.publications, .shadow] : List Field), f ∈ T) :
    OnlyChanges T s (t.writeAnswer owner target entryOffset bytes) ↔ OnlyChanges T s t :=
  OnlyChanges.iff_of (A := [.publications, .shadow]) (by
    simp only [State.writeAnswer]
    all_goals (try simp)) hT

@[simp] theorem storeNotice_frame {T : List Field} {s t : State} (ring : Fin 2) (n : Notice) (lost : Half)
    (hT : ∀ f ∈ ([.notices, .stamps, .publications] : List Field), f ∈ T) :
    OnlyChanges T s (t.storeNotice ring n lost) ↔ OnlyChanges T s t :=
  OnlyChanges.iff_of (A := [.notices, .stamps, .publications]) (by
    simp only [State.storeNotice]
    all_goals (try simp)) hT

@[simp] theorem loseNotice_frame {T : List Field} {s t : State} (ring : Fin 2)
    (hT : ∀ f ∈ ([.notices, .stamps, .publications] : List Field), f ∈ T) :
    OnlyChanges T s (t.loseNotice ring) ↔ OnlyChanges T s t :=
  OnlyChanges.iff_of (A := [.notices, .stamps, .publications]) (by
    simp only [State.loseNotice]
    repeat' split
    all_goals (try simp)) hT

@[simp] theorem routeNotice_frame {T : List Field} {s t : State} (ring : Fin 2) (n : Notice)
    (hT : ∀ f ∈ ([.notices, .stamps, .publications] : List Field), f ∈ T) :
    OnlyChanges T s (t.routeNotice ring n) ↔ OnlyChanges T s t :=
  OnlyChanges.iff_of (A := [.notices, .stamps, .publications]) (by
    simp only [State.routeNotice]
    repeat' split
    all_goals (try simp)) hT

@[simp] theorem raise_frame {T : List Field} {s t : State} (n : Notice)
    (hT : ∀ f ∈ ([.notices, .stamps, .publications] : List Field), f ∈ T) :
    OnlyChanges T s (t.raise n) ↔ OnlyChanges T s t :=
  OnlyChanges.iff_of (A := [.notices, .stamps, .publications]) (by
    simp only [State.raise]
    repeat' split
    all_goals (try simp)) hT

@[simp] theorem countCredit_frame {T : List Field} {s t : State} (c : Credit)
    (hT : ∀ f ∈ ([.stats] : List Field), f ∈ T) :
    OnlyChanges T s (t.countCredit c) ↔ OnlyChanges T s t :=
  OnlyChanges.iff_of (A := [.stats]) (by
    simp only [State.countCredit]
    repeat' split
    all_goals (try simp)) hT

@[simp] theorem raiseRequest_frame {T : List Field} {s t : State} (c : RequestClass) (i : Fin 64)
    (hT : ∀ f ∈ ([.boards, .solver, .stats] : List Field), f ∈ T) :
    OnlyChanges T s (t.raiseRequest c i) ↔ OnlyChanges T s t :=
  OnlyChanges.iff_of (A := [.boards, .solver, .stats]) (by
    simp only [State.raiseRequest]
    repeat' split
    all_goals (try simp)) hT

@[simp] theorem serveOne_frame {T : List Field} {s t : State} (i : Fin 64)
    (hT : ∀ f ∈ ([.boards, .solver, .stats, .stamps, .publications] : List Field), f ∈ T) :
    OnlyChanges T s (t.serveOne i) ↔ OnlyChanges T s t :=
  OnlyChanges.iff_of (A := [.boards, .solver, .stats, .stamps, .publications]) (by
    simp only [State.serveOne]
    repeat' split
    all_goals (try simp)) hT

@[simp] theorem serveWaiting_frame {T : List Field} {s t : State}
    (hT : ∀ f ∈ ([.boards, .solver, .stats, .stamps, .publications] : List Field), f ∈ T) :
    OnlyChanges T s t.serveWaiting ↔ OnlyChanges T s t :=
  OnlyChanges.iff_of (A := [.boards, .solver, .stats, .stamps, .publications]) (by
    simp only [State.serveWaiting]
    all_goals (try simp)) hT

@[simp] theorem restartSolve_frame {T : List Field} {s t : State} (i : Fin 64)
    (hT : ∀ f ∈ ([.boards, .solver, .stats] : List Field), f ∈ T) :
    OnlyChanges T s (t.restartSolve i) ↔ OnlyChanges T s t :=
  OnlyChanges.iff_of (A := [.boards, .solver, .stats]) (by
    simp only [State.restartSolve]
    all_goals (try simp)) hT

@[simp] theorem resolveCause_frame {T : List Field} {s t : State} (i : Fin 64)
    (hT : ∀ f ∈ ([.boards, .solver, .stats] : List Field), f ∈ T) :
    OnlyChanges T s (t.resolveCause i) ↔ OnlyChanges T s t :=
  OnlyChanges.iff_of (A := [.boards, .solver, .stats]) (by
    simp only [State.resolveCause]
    repeat' split
    all_goals (try simp)) hT

@[simp] theorem dropRequest_frame {T : List Field} {s t : State} (i : Fin 64)
    (hT : ∀ f ∈ ([.boards, .solver] : List Field), f ∈ T) :
    OnlyChanges T s (t.dropRequest i) ↔ OnlyChanges T s t :=
  OnlyChanges.iff_of (A := [.boards, .solver]) (by
    simp only [State.dropRequest]
    repeat' split
    all_goals (try simp)) hT

@[simp] theorem cancelAtCommit_frame {T : List Field} {s t : State} (i : Fin 64)
    (hT : ∀ f ∈ ([.boards, .solver, .stats, .stamps, .publications] : List Field), f ∈ T) :
    OnlyChanges T s (t.cancelAtCommit i) ↔ OnlyChanges T s t :=
  OnlyChanges.iff_of (A := [.boards, .solver, .stats, .stamps, .publications]) (by
    simp only [State.cancelAtCommit]
    repeat' split
    all_goals (try simp)) hT

@[simp] theorem raiseIf_frame {T : List Field} {s t : State} (n : Option Notice)
    (hT : ∀ f ∈ ([.notices, .stamps, .publications] : List Field), f ∈ T) :
    OnlyChanges T s (t.raiseIf n) ↔ OnlyChanges T s t :=
  OnlyChanges.iff_of (A := [.notices, .stamps, .publications]) (by
    simp only [State.raiseIf]
    repeat' split
    all_goals (try simp)) hT

@[simp] theorem beginSolve_frame {T : List Field} {s t : State}
    (hT : ∀ f ∈ ([.boards, .solver, .stamps, .publications] : List Field), f ∈ T) :
    OnlyChanges T s t.beginSolve ↔ OnlyChanges T s t :=
  OnlyChanges.iff_of (A := [.boards, .solver, .stamps, .publications]) (by
    simp only [State.beginSolve]
    repeat' split
    all_goals (try simp)) hT

@[simp] theorem storePlan_frame {T : List Field} {s t : State} (i : Fin 64) (p : Plan)
    (hT : ∀ f ∈ ([.boards, .solver] : List Field), f ∈ T) :
    OnlyChanges T s (t.storePlan i p) ↔ OnlyChanges T s t :=
  OnlyChanges.iff_of (A := [.boards, .solver]) (by
    simp only [State.storePlan]
    all_goals (try simp)) hT

@[simp] theorem completeSolve_frame {T : List Field} {s t : State}
    (hT : ∀ f ∈ ([.boards, .solver, .stats, .notices, .stamps, .publications] : List Field), f ∈ T) :
    OnlyChanges T s t.completeSolve ↔ OnlyChanges T s t :=
  OnlyChanges.iff_of (A := [.boards, .solver, .stats, .notices, .stamps, .publications]) (by
    simp only [State.completeSolve]
    repeat' split
    all_goals (try simp)) hT

@[simp] theorem onRun_frame {T : List Field} {s t : State} (number : Half) (f : RunSlot → RunSlot)
    (hT : ∀ f ∈ ([.runs] : List Field), f ∈ T) :
    OnlyChanges T s (t.onRun number f) ↔ OnlyChanges T s t :=
  OnlyChanges.iff_of (A := [.runs]) (by
    simp only [State.onRun]
    repeat' split
    all_goals (try simp)) hT

@[simp] theorem publishRun_frame {T : List Field} {s t : State} (number : Half)
    (hT : ∀ f ∈ ([.stamps, .publications] : List Field), f ∈ T) :
    OnlyChanges T s (t.publishRun number) ↔ OnlyChanges T s t :=
  OnlyChanges.iff_of (A := [.stamps, .publications]) (by
    simp only [State.publishRun]
    repeat' split
    all_goals (try simp)) hT

@[simp] theorem settleRun_frame {T : List Field} {s t : State} (r : Fin 8)
    (hT : ∀ f ∈ ([.runs, .notices, .stamps, .publications] : List Field), f ∈ T) :
    OnlyChanges T s (t.settleRun r) ↔ OnlyChanges T s t :=
  OnlyChanges.iff_of (A := [.runs, .notices, .stamps, .publications]) (by
    simp only [State.settleRun]
    repeat' split
    all_goals (try simp)) hT

@[simp] theorem leaveRun_frame {T : List Field} {s t : State} (number : Half) (f : RunSlot → RunSlot)
    (hT : ∀ f ∈ ([.runs, .notices, .stamps, .publications] : List Field), f ∈ T) :
    OnlyChanges T s (t.leaveRun number f) ↔ OnlyChanges T s t :=
  OnlyChanges.iff_of (A := [.runs, .notices, .stamps, .publications]) (by
    simp only [State.leaveRun]
    repeat' split
    all_goals (try simp)) hT

@[simp] theorem openRun_frame {T : List Field} {s t : State} (r : Fin 8)
    (hT : ∀ f ∈ ([.runs, .stamps, .publications] : List Field), f ∈ T) :
    OnlyChanges T s (t.openRun r) ↔ OnlyChanges T s t :=
  OnlyChanges.iff_of (A := [.runs, .stamps, .publications]) (by
    simp only [State.openRun]
    all_goals (try simp)
    all_goals (intro f hf; cases f <;> first | rfl | (simp at hf))) hT

@[simp] theorem advanceRun_frame {T : List Field} {s t : State} (r q : Fin 8)
    (hT : ∀ f ∈ ([.runs, .notices, .stamps, .publications] : List Field), f ∈ T) :
    OnlyChanges T s (t.advanceRun r q) ↔ OnlyChanges T s t :=
  OnlyChanges.iff_of (A := [.runs, .notices, .stamps, .publications]) (by
    simp only [State.advanceRun]
    all_goals (try simp)
    all_goals (intro f hf; cases f <;> first | rfl | (simp at hf))) hT

@[simp] theorem setRefs_frame {T : List Field} {s t : State} (k : BankId) (n : Nat)
    (hT : ∀ f ∈ ([.banks, .stamps, .publications] : List Field), f ∈ T) :
    OnlyChanges T s (t.setRefs k n) ↔ OnlyChanges T s t :=
  OnlyChanges.iff_of (A := [.banks, .stamps, .publications]) (by
    simp only [State.setRefs]
    all_goals (try simp)) hT

@[simp] theorem releaseBank_frame {T : List Field} {s t : State} (k : BankId) (lug : Half)
    (hT : ∀ f ∈ ([.banks, .notices, .stamps, .publications] : List Field), f ∈ T) :
    OnlyChanges T s (t.releaseBank k lug) ↔ OnlyChanges T s t :=
  OnlyChanges.iff_of (A := [.banks, .notices, .stamps, .publications]) (by
    simp only [State.releaseBank]
    repeat' split
    all_goals (try simp)) hT

@[simp] theorem dropReference_frame {T : List Field} {s t : State} (k : BankId) (lug : Half)
    (hT : ∀ f ∈ ([.banks, .notices, .stamps, .publications] : List Field), f ∈ T) :
    OnlyChanges T s (t.dropReference k lug) ↔ OnlyChanges T s t :=
  OnlyChanges.iff_of (A := [.banks, .notices, .stamps, .publications]) (by
    simp only [State.dropReference]
    all_goals (try simp)) hT

@[simp] theorem makeSwitch_frame {T : List Field} {s t : State} (k : BankId) (n : Half)
    (hT : ∀ f ∈ ([.banks, .notices, .stamps, .publications] : List Field), f ∈ T) :
    OnlyChanges T s (t.makeSwitch k n) ↔ OnlyChanges T s t :=
  OnlyChanges.iff_of (A := [.banks, .notices, .stamps, .publications]) (by
    simp only [State.makeSwitch]
    repeat' split
    all_goals (try simp)) hT

@[simp] theorem switchAtLug_frame {T : List Field} {s t : State} (n : Half)
    (hT : ∀ f ∈ ([.banks, .notices, .stamps, .publications] : List Field), f ∈ T) :
    OnlyChanges T s (t.switchAtLug n) ↔ OnlyChanges T s t :=
  OnlyChanges.iff_of (A := [.banks, .notices, .stamps, .publications]) (by
    simp only [State.switchAtLug]
    repeat' split
    all_goals (try simp)) hT

@[simp] theorem dropPendingSwitch_frame {T : List Field} {s t : State}
    (hT : ∀ f ∈ ([.banks, .notices, .stamps, .publications] : List Field), f ∈ T) :
    OnlyChanges T s t.dropPendingSwitch ↔ OnlyChanges T s t :=
  OnlyChanges.iff_of (A := [.banks, .notices, .stamps, .publications]) (by
    simp only [State.dropPendingSwitch]
    repeat' split
    all_goals (try simp)) hT

@[simp] theorem countFallback_frame {T : List Field} {s t : State} (i : Fin 64) (p : CommittedPlan)
    (hT : ∀ f ∈ ([.runs, .stats, .notices, .stamps, .publications] : List Field), f ∈ T) :
    OnlyChanges T s (t.countFallback i p) ↔ OnlyChanges T s t :=
  OnlyChanges.iff_of (A := [.runs, .stats, .notices, .stamps, .publications]) (by
    simp only [State.countFallback]
    repeat' split
    all_goals (try simp)) hT

@[simp] theorem writeTrim_frame {T : List Field} {s t : State} (lug : Half) (x : TrimSlot)
    (hT : ∀ f ∈ ([.trimRing, .stats, .notices, .stamps, .publications] : List Field), f ∈ T) :
    OnlyChanges T s (t.writeTrim lug x) ↔ OnlyChanges T s t :=
  OnlyChanges.iff_of (A := [.trimRing, .stats, .notices, .stamps, .publications]) (by
    simp only [State.writeTrim]
    repeat' split
    all_goals (try simp)) hT

@[simp] theorem commitBoard_frame {T : List Field} {s t : State} (i : Fin 64)
    (hT : ∀ f ∈ ([.boards, .solver, .trimRing, .runs, .stats, .notices, .stamps, .publications] : List Field), f ∈ T) :
    OnlyChanges T s (t.commitBoard i) ↔ OnlyChanges T s t :=
  OnlyChanges.iff_of (A := [.boards, .solver, .trimRing, .runs, .stats, .notices, .stamps, .publications]) (by
    simp only [State.commitBoard]
    all_goals (try simp)) hT

@[simp] theorem commitLug_frame {T : List Field} {s t : State} (lug : Half)
    (hT : ∀ f ∈ ([.boards, .solver, .trimRing, .runs, .stats, .notices, .stamps, .publications] : List Field), f ∈ T) :
    OnlyChanges T s (t.commitLug lug) ↔ OnlyChanges T s t :=
  OnlyChanges.iff_of (A := [.boards, .solver, .trimRing, .runs, .stats, .notices, .stamps, .publications]) (by
    simp only [State.commitLug]
    repeat' split
    all_goals (try simp)) hT

@[simp] theorem reviseLate_frame {T : List Field} {s t : State} (i : Fin 64) (a : OverrideAction)
    (hT : ∀ f ∈ ([.boards] : List Field), f ∈ T) :
    OnlyChanges T s (t.reviseLate i a) ↔ OnlyChanges T s t :=
  OnlyChanges.iff_of (A := [.boards]) (by
    simp only [State.reviseLate]
    all_goals (try simp)) hT

@[simp] theorem countOverflow_frame {T : List Field} {s t : State} (lug : Half) (k : BankId) (p : CommittedPlan) (code : Nat)
    (hT : ∀ f ∈ ([.stats, .notices, .stamps, .publications] : List Field), f ∈ T) :
    OnlyChanges T s (t.countOverflow lug k p code) ↔ OnlyChanges T s t :=
  OnlyChanges.iff_of (A := [.stats, .notices, .stamps, .publications]) (by
    simp only [State.countOverflow]
    repeat' split
    all_goals (try simp)) hT

@[simp] theorem fillBin_frame {T : List Field} {s t : State} (n : Fin 41)
    (hT : ∀ f ∈ ([.bins, .notices, .stamps, .publications] : List Field), f ∈ T) :
    OnlyChanges T s (t.fillBin n) ↔ OnlyChanges T s t :=
  OnlyChanges.iff_of (A := [.bins, .notices, .stamps, .publications]) (by
    simp only [State.fillBin]
    repeat' split
    all_goals (try simp)) hT

@[simp] theorem writeSort_frame {T : List Field} {s t : State} (lug : Half) (x : SortSlot)
    (hT : ∀ f ∈ ([.sortRing, .stats, .notices, .stamps, .publications] : List Field), f ∈ T) :
    OnlyChanges T s (t.writeSort lug x) ↔ OnlyChanges T s t :=
  OnlyChanges.iff_of (A := [.sortRing, .stats, .notices, .stamps, .publications]) (by
    simp only [State.writeSort]
    repeat' split
    all_goals (try simp)) hT

@[simp] theorem freeSorted_frame {T : List Field} {s t : State} (i : Fin 64) (p : CommittedPlan)
    (hT : ∀ f ∈ ([.boards, .runs, .banks, .notices, .stamps, .publications] : List Field), f ∈ T) :
    OnlyChanges T s (t.freeSorted i p) ↔ OnlyChanges T s t :=
  OnlyChanges.iff_of (A := [.boards, .runs, .banks, .notices, .stamps, .publications]) (by
    simp only [State.freeSorted]
    all_goals (try simp)) hT

@[simp] theorem sortInto_frame {T : List Field} {s t : State} (i : Fin 64) (n : Fin 41) (code : Nat)
    (hT : ∀ f ∈ ([.boards, .sortRing, .bins, .runs, .stats, .banks, .notices, .stamps, .publications] : List Field), f ∈ T) :
    OnlyChanges T s (t.sortInto i n code) ↔ OnlyChanges T s t :=
  OnlyChanges.iff_of (A := [.boards, .sortRing, .bins, .runs, .stats, .banks, .notices, .stamps, .publications]) (by
    simp only [State.sortInto]
    all_goals (try simp)) hT

@[simp] theorem sortBoard_frame {T : List Field} {s t : State} (i : Fin 64)
    (hT : ∀ f ∈ ([.boards, .sortRing, .bins, .runs, .stats, .banks, .notices, .stamps, .publications] : List Field), f ∈ T) :
    OnlyChanges T s (t.sortBoard i) ↔ OnlyChanges T s t :=
  OnlyChanges.iff_of (A := [.boards, .sortRing, .bins, .runs, .stats, .banks, .notices, .stamps, .publications]) (by
    simp only [State.sortBoard]
    all_goals (try simp)) hT

@[simp] theorem drainIfDone_frame {T : List Field} {s t : State}
    (hT : ∀ f ∈ ([.lineState, .lugLine, .held, .banks, .notices, .stamps, .publications] : List Field), f ∈ T) :
    OnlyChanges T s t.drainIfDone ↔ OnlyChanges T s t :=
  OnlyChanges.iff_of (A := [.lineState, .lugLine, .held, .banks, .notices, .stamps, .publications]) (by
    simp only [State.drainIfDone]
    repeat' split
    all_goals (try simp)
    all_goals (intro f hf; cases f <;> first | rfl | (simp at hf))) hT

@[simp] theorem sortLug_frame {T : List Field} {s t : State} (lug : Half)
    (hT : ∀ f ∈ ([.lineState, .lugLine, .boards, .held, .sortRing, .bins, .runs, .stats, .banks, .notices, .stamps, .publications] : List Field), f ∈ T) :
    OnlyChanges T s (t.sortLug lug) ↔ OnlyChanges T s t :=
  OnlyChanges.iff_of (A := [.lineState, .lugLine, .boards, .held, .sortRing, .bins, .runs, .stats, .banks, .notices, .stamps, .publications]) (by
    simp only [State.sortLug]
    repeat' split
    all_goals (try simp)) hT

@[simp] theorem consumeTrim_frame {T : List Field} {s t : State} (i : Fin 16) (header : List Byte)
    (hT : ∀ f ∈ ([.trimRing, .stamps, .publications] : List Field), f ∈ T) :
    OnlyChanges T s (t.consumeTrim i header) ↔ OnlyChanges T s t :=
  OnlyChanges.iff_of (A := [.trimRing, .stamps, .publications]) (by
    simp only [State.consumeTrim]
    repeat' split
    all_goals (try simp)) hT

@[simp] theorem consumeSort_frame {T : List Field} {s t : State} (i : Fin 16) (header : List Byte)
    (hT : ∀ f ∈ ([.sortRing, .stamps, .publications] : List Field), f ∈ T) :
    OnlyChanges T s (t.consumeSort i header) ↔ OnlyChanges T s t :=
  OnlyChanges.iff_of (A := [.sortRing, .stamps, .publications]) (by
    simp only [State.consumeSort]
    repeat' split
    all_goals (try simp)) hT

@[simp] theorem closeBoard_frame {T : List Field} {s t : State} (i : Fin 64)
    (hT : ∀ f ∈ ([.boards, .solver, .stats, .notices, .stamps, .publications] : List Field), f ∈ T) :
    OnlyChanges T s (t.closeBoard i) ↔ OnlyChanges T s t :=
  OnlyChanges.iff_of (A := [.boards, .solver, .stats, .notices, .stamps, .publications]) (by
    simp only [State.closeBoard]
    all_goals (try simp)) hT

@[simp] theorem closeEmpty_frame {T : List Field} {s t : State} (lug : Half) (o : Option Override)
    (hT : ∀ f ∈ ([.notices, .stamps, .publications] : List Field), f ∈ T) :
    OnlyChanges T s (t.closeEmpty lug o) ↔ OnlyChanges T s t :=
  OnlyChanges.iff_of (A := [.notices, .stamps, .publications]) (by
    simp only [State.closeEmpty]
    repeat' split
    all_goals (try simp)) hT

@[simp] theorem closeLug_frame {T : List Field} {s t : State} (lug : Half)
    (hT : ∀ f ∈ ([.lugLine, .boards, .solver, .stats, .notices, .stamps, .publications] : List Field), f ∈ T) :
    OnlyChanges T s (t.closeLug lug) ↔ OnlyChanges T s t :=
  OnlyChanges.iff_of (A := [.lugLine, .boards, .solver, .stats, .notices, .stamps, .publications]) (by
    simp only [State.closeLug]
    repeat' split
    all_goals (try simp)) hT

@[simp] theorem earlyCloseAll_frame {T : List Field} {s t : State}
    (hT : ∀ f ∈ ([.lugLine, .boards, .solver, .stats, .notices, .stamps, .publications] : List Field), f ∈ T) :
    OnlyChanges T s t.earlyCloseAll ↔ OnlyChanges T s t :=
  OnlyChanges.iff_of (A := [.lugLine, .boards, .solver, .stats, .notices, .stamps, .publications]) (by
    simp only [State.earlyCloseAll]
    all_goals (try simp)) hT

@[simp] theorem tallyLog_frame {T : List Field} {s t : State} (volume : Nat)
    (hT : ∀ f ∈ ([.runs, .stamps, .publications] : List Field), f ∈ T) :
    OnlyChanges T s (t.tallyLog volume) ↔ OnlyChanges T s t :=
  OnlyChanges.iff_of (A := [.runs, .stamps, .publications]) (by
    simp only [State.tallyLog]
    repeat' split
    all_goals (try simp)) hT

@[simp] theorem closeLog_frame {T : List Field} {s t : State} (x : OpenLog) (truncated : Bool)
    (hT : ∀ f ∈ ([.lineState, .lugLine, .held, .logUnit, .runs, .banks, .notices, .stamps, .publications] : List Field), f ∈ T) :
    OnlyChanges T s (t.closeLog x truncated) ↔ OnlyChanges T s t :=
  OnlyChanges.iff_of (A := [.lineState, .lugLine, .held, .logUnit, .runs, .banks, .notices, .stamps, .publications]) (by
    simp only [State.closeLog]
    all_goals (try simp)) hT

@[simp] theorem truncateLog_frame {T : List Field} {s t : State}
    (hT : ∀ f ∈ ([.lineState, .lugLine, .held, .logUnit, .runs, .banks, .notices, .stamps, .publications] : List Field), f ∈ T) :
    OnlyChanges T s t.truncateLog ↔ OnlyChanges T s t :=
  OnlyChanges.iff_of (A := [.lineState, .lugLine, .held, .logUnit, .runs, .banks, .notices, .stamps, .publications]) (by
    simp only [State.truncateLog]
    repeat' split
    all_goals (try simp)) hT

@[simp] theorem storeLog_frame {T : List Field} {s t : State} (x : OpenLog) (ends : Bool)
    (hT : ∀ f ∈ ([.lineState, .lugLine, .heads, .held, .logUnit, .runs, .stats, .banks, .notices, .stamps, .publications] : List Field), f ∈ T) :
    OnlyChanges T s (t.storeLog x ends) ↔ OnlyChanges T s t :=
  OnlyChanges.iff_of (A := [.lineState, .lugLine, .heads, .held, .logUnit, .runs, .stats, .banks, .notices, .stamps, .publications]) (by
    simp only [State.storeLog]
    repeat' split
    all_goals (try simp)) hT

@[simp] theorem addSection_frame {T : List Field} {s t : State} (x : OpenLog) (f : Frame)
    (hT : ∀ f ∈ ([.lineState, .lugLine, .heads, .held, .logUnit, .runs, .stats, .banks, .notices, .stamps, .publications] : List Field), f ∈ T) :
    OnlyChanges T s (t.addSection x f) ↔ OnlyChanges T s t :=
  OnlyChanges.iff_of (A := [.lineState, .lugLine, .heads, .held, .logUnit, .runs, .stats, .banks, .notices, .stamps, .publications]) (by
    simp only [State.addSection]
    repeat' split
    all_goals (try simp)) hT

@[simp] theorem takeLogFrame_frame {T : List Field} {s t : State} (f : Frame)
    (hT : ∀ f ∈ ([.lineState, .lugLine, .heads, .held, .logUnit, .runs, .stats, .banks, .notices, .stamps, .publications] : List Field), f ∈ T) :
    OnlyChanges T s (t.takeLogFrame f) ↔ OnlyChanges T s t :=
  OnlyChanges.iff_of (A := [.lineState, .lugLine, .heads, .held, .logUnit, .runs, .stats, .banks, .notices, .stamps, .publications]) (by
    simp only [State.takeLogFrame]
    repeat' split
    all_goals (try simp)) hT

@[simp] theorem setHeadFlag_frame {T : List Field} {s t : State} (h : Fin 9) (slot : Fin 16) (k : HeadFlag)
    (hT : ∀ f ∈ ([.heads, .stats, .notices, .stamps, .publications] : List Field), f ∈ T) :
    OnlyChanges T s (t.setHeadFlag h slot k) ↔ OnlyChanges T s t :=
  OnlyChanges.iff_of (A := [.heads, .stats, .notices, .stamps, .publications]) (by
    simp only [State.setHeadFlag]
    repeat' split
    all_goals (try simp)) hT

@[simp] theorem failFrame_frame {T : List Field} {s t : State} (h : Fin 9) (slot : Fin 16) (k : HeadFlag)
    (hT : ∀ f ∈ ([.lugLine, .boards, .heads, .solver, .stats, .notices, .stamps, .publications] : List Field), f ∈ T) :
    OnlyChanges T s (t.failFrame h slot k) ↔ OnlyChanges T s t :=
  OnlyChanges.iff_of (A := [.lugLine, .boards, .heads, .solver, .stats, .notices, .stamps, .publications]) (by
    simp only [State.failFrame]
    repeat' split
    all_goals (try simp)) hT

@[simp] theorem addDefect_frame {T : List Field} {s t : State} (i : Fin 64) (d : Defect)
    (hT : ∀ f ∈ ([.boards, .notices, .stamps, .publications] : List Field), f ∈ T) :
    OnlyChanges T s (t.addDefect i d) ↔ OnlyChanges T s t :=
  OnlyChanges.iff_of (A := [.boards, .notices, .stamps, .publications]) (by
    simp only [State.addDefect]
    repeat' split
    all_goals (try simp)) hT

@[simp] theorem takeDefect_frame {T : List Field} {s t : State} (h : Fin 8) (i : Fin 64) (e : DefectEntry)
    (hT : ∀ f ∈ ([.boards, .notices, .stamps, .publications] : List Field), f ∈ T) :
    OnlyChanges T s (t.takeDefect h i e) ↔ OnlyChanges T s t :=
  OnlyChanges.iff_of (A := [.boards, .notices, .stamps, .publications]) (by
    simp only [State.takeDefect]
    repeat' split
    all_goals (try simp)) hT

@[simp] theorem addSlice_frame {T : List Field} {s t : State} (h : Fin 8) (f : Frame) (i : Fin 64)
    (hT : ∀ f ∈ ([.lugLine, .boards, .solver, .stats, .notices, .stamps, .publications] : List Field), f ∈ T) :
    OnlyChanges T s (t.addSlice h f i) ↔ OnlyChanges T s t :=
  OnlyChanges.iff_of (A := [.lugLine, .boards, .solver, .stats, .notices, .stamps, .publications]) (by
    simp only [State.addSlice]
    repeat' split
    all_goals (try simp)) hT

@[simp] theorem offerSlice_frame {T : List Field} {s t : State} (h : Fin 8) (f : Frame) (i : Fin 64)
    (hT : ∀ f ∈ ([.lugLine, .boards, .solver, .stats, .notices, .stamps, .publications] : List Field), f ∈ T) :
    OnlyChanges T s ((t.offerSlice h f i)).1 ↔ OnlyChanges T s t :=
  OnlyChanges.iff_of (A := [.lugLine, .boards, .solver, .stats, .notices, .stamps, .publications]) (by
    simp only [State.offerSlice]
    repeat' split
    all_goals (try simp)) hT

@[simp] theorem openBoard_frame {T : List Field} {s t : State} (e : LugEntry) (i : Fin 64)
    (hT : ∀ f ∈ ([.lugLine, .boards, .runs, .banks, .stamps, .publications] : List Field), f ∈ T) :
    OnlyChanges T s (t.openBoard e i) ↔ OnlyChanges T s t :=
  OnlyChanges.iff_of (A := [.lugLine, .boards, .runs, .banks, .stamps, .publications]) (by
    simp only [State.openBoard]
    all_goals (try simp)) hT

@[simp] theorem settleEntry_frame {T : List Field} {s t : State} (h : Fin 8) (f : Frame) (e : LugEntry)
    (hT : ∀ f ∈ ([.lugLine, .boards, .solver, .runs, .stats, .banks, .notices, .stamps, .publications] : List Field), f ∈ T) :
    OnlyChanges T s ((t.settleEntry h f e)).1 ↔ OnlyChanges T s t :=
  OnlyChanges.iff_of (A := [.lugLine, .boards, .solver, .runs, .stats, .banks, .notices, .stamps, .publications]) (by
    simp only [State.settleEntry]
    repeat' split
    all_goals (try simp)) hT

@[simp] theorem lugWindow_frame {T : List Field} {s t : State} (h : Fin 8) (f : Frame)
    (hT : ∀ f ∈ ([.lugLine, .boards, .solver, .runs, .stats, .banks, .notices, .stamps, .publications] : List Field), f ∈ T) :
    OnlyChanges T s ((t.lugWindow h f)).1 ↔ OnlyChanges T s t :=
  OnlyChanges.iff_of (A := [.lugLine, .boards, .solver, .runs, .stats, .banks, .notices, .stamps, .publications]) (by
    simp only [State.lugWindow]
    repeat' split
    all_goals (try simp)) hT

@[simp] theorem settleGood_frame {T : List Field} {s t : State} (h : Fin 9) (f : Frame)
    (hT : ∀ f ∈ ([.lineState, .lugLine, .boards, .heads, .solver, .held, .logUnit, .runs, .stats, .banks, .notices, .stamps, .publications] : List Field), f ∈ T) :
    OnlyChanges T s (t.settleGood h f) ↔ OnlyChanges T s t :=
  OnlyChanges.iff_of (A := [.lineState, .lugLine, .boards, .heads, .solver, .held, .logUnit, .runs, .stats, .banks, .notices, .stamps, .publications]) (by
    simp only [State.settleGood]
    repeat' split
    all_goals (try simp)) hT

@[simp] theorem checkSequence_frame {T : List Field} {s t : State} (h : Fin 9) (slot : Fin 16) (f : Frame)
    (hT : ∀ f ∈ ([.heads, .stats, .notices, .stamps, .publications] : List Field), f ∈ T) :
    OnlyChanges T s (t.checkSequence h slot f) ↔ OnlyChanges T s t :=
  OnlyChanges.iff_of (A := [.heads, .stats, .notices, .stamps, .publications]) (by
    simp only [State.checkSequence]
    repeat' split
    all_goals (try simp)) hT

@[simp] theorem settleArrival_frame {T : List Field} {s t : State} (h : Fin 9) (slot : Fin 16) (f : Frame) (written : BitVec 4)
    (hT : ∀ f ∈ ([.lineState, .lugLine, .boards, .heads, .solver, .held, .logUnit, .runs, .stats, .banks, .notices, .stamps, .publications] : List Field), f ∈ T) :
    OnlyChanges T s (t.settleArrival h slot f written) ↔ OnlyChanges T s t :=
  OnlyChanges.iff_of (A := [.lineState, .lugLine, .boards, .heads, .solver, .held, .logUnit, .runs, .stats, .banks, .notices, .stamps, .publications]) (by
    simp only [State.settleArrival]
    repeat' split
    all_goals (try simp)) hT

@[simp] theorem frameArrival_frame {T : List Field} {s t : State} (h : Fin 9) (slot : Fin 16)
    (hT : ∀ f ∈ ([.lineState, .lugLine, .boards, .heads, .solver, .held, .logUnit, .runs, .stats, .banks, .notices, .stamps, .publications] : List Field), f ∈ T) :
    OnlyChanges T s (t.frameArrival h slot) ↔ OnlyChanges T s t :=
  OnlyChanges.iff_of (A := [.lineState, .lugLine, .boards, .heads, .solver, .held, .logUnit, .runs, .stats, .banks, .notices, .stamps, .publications]) (by
    simp only [State.frameArrival]
    all_goals (try simp)) hT

@[simp] theorem markBlock_frame {T : List Field} {s t : State} (h : Fin 9) (slot : Fin 16) (k : Fin 4)
    (hT : ∀ f ∈ ([.heads] : List Field), f ∈ T) :
    OnlyChanges T s (t.markBlock h slot k) ↔ OnlyChanges T s t :=
  OnlyChanges.iff_of (A := [.heads]) (by
    simp only [State.markBlock]
    all_goals (try simp)) hT

@[simp] theorem supersede_frame {T : List Field} {s t : State} (lug : Half) (old : Option Override) (new : Override)
    (hT : ∀ f ∈ ([.notices, .stamps, .publications] : List Field), f ∈ T) :
    OnlyChanges T s (t.supersede lug old new) ↔ OnlyChanges T s t :=
  OnlyChanges.iff_of (A := [.notices, .stamps, .publications]) (by
    simp only [State.supersede]
    repeat' split
    all_goals (try simp)) hT

@[simp] theorem dropHeld_frame {T : List Field} {s t : State} (lug : Half)
    (hT : ∀ f ∈ ([.held] : List Field), f ∈ T) :
    OnlyChanges T s (t.dropHeld lug) ↔ OnlyChanges T s t :=
  OnlyChanges.iff_of (A := [.held]) (by
    simp only [State.dropHeld]
    all_goals (try simp)
    all_goals (intro f hf; cases f <;> first | rfl | (simp at hf))) hT

@[simp] theorem replaceHeld_frame {T : List Field} {s t : State} (lug : Half) (o : Override)
    (hT : ∀ f ∈ ([.held] : List Field), f ∈ T) :
    OnlyChanges T s (t.replaceHeld lug o) ↔ OnlyChanges T s t :=
  OnlyChanges.iff_of (A := [.held]) (by
    simp only [State.replaceHeld]
    all_goals (intro f hf; cases f <;> first | rfl | (simp at hf))) hT

@[simp] theorem holdOverride_frame {T : List Field} {s t : State} (lug : Half) (station : Fin 8) (a : Option OverrideAction)
    (hT : ∀ f ∈ ([.held, .notices, .stamps, .publications] : List Field), f ∈ T) :
    OnlyChanges T s ((t.holdOverride lug station a)).1 ↔ OnlyChanges T s t :=
  OnlyChanges.iff_of (A := [.held, .notices, .stamps, .publications]) (by
    simp only [State.holdOverride]
    repeat' split
    all_goals (try simp)
    all_goals (intro f hf; cases f <;> first | rfl | (simp at hf))) hT

@[simp] theorem overrideEntry_frame {T : List Field} {s t : State} (e : LugEntry) (station : Fin 8) (a : Option OverrideAction)
    (hT : ∀ f ∈ ([.lugLine, .notices, .stamps, .publications] : List Field), f ∈ T) :
    OnlyChanges T s ((t.overrideEntry e station a)).1 ↔ OnlyChanges T s t :=
  OnlyChanges.iff_of (A := [.lugLine, .notices, .stamps, .publications]) (by
    simp only [State.overrideEntry]
    repeat' split
    all_goals (try simp)) hT

@[simp] theorem attach_frame {T : List Field} {s t : State} (i : Fin 64) (lug : Half) (station : Fin 8) (a : Option OverrideAction)
    (hT : ∀ f ∈ ([.boards, .notices, .stamps, .publications] : List Field), f ∈ T) :
    OnlyChanges T s (t.attach i lug station a) ↔ OnlyChanges T s t :=
  OnlyChanges.iff_of (A := [.boards, .notices, .stamps, .publications]) (by
    simp only [State.attach]
    repeat' split
    all_goals (try simp)) hT

@[simp] theorem overrideBoard_frame {T : List Field} {s t : State} (i : Fin 64) (lug : Half) (station : Fin 8) (a : Option OverrideAction)
    (hT : ∀ f ∈ ([.boards, .solver, .stats, .notices, .stamps, .publications] : List Field), f ∈ T) :
    OnlyChanges T s ((t.overrideBoard i lug station a)).1 ↔ OnlyChanges T s t :=
  OnlyChanges.iff_of (A := [.boards, .solver, .stats, .notices, .stamps, .publications]) (by
    simp only [State.overrideBoard]
    repeat' split
    all_goals (try simp)) hT

@[simp] theorem overrideLate_frame {T : List Field} {s t : State} (i : Fin 64) (lug : Half) (station : Fin 8) (x : OverrideAction)
    (hT : ∀ f ∈ ([.boards, .notices, .stamps, .publications] : List Field), f ∈ T) :
    OnlyChanges T s ((t.overrideLate i lug station x)).1 ↔ OnlyChanges T s t :=
  OnlyChanges.iff_of (A := [.boards, .notices, .stamps, .publications]) (by
    simp only [State.overrideLate]
    repeat' split
    all_goals (try simp)) hT

@[simp] theorem overrideCommitted_frame {T : List Field} {s t : State} (i : Fin 64) (lug : Half) (station : Fin 8) (a : Option OverrideAction)
    (hT : ∀ f ∈ ([.boards, .notices, .stamps, .publications] : List Field), f ∈ T) :
    OnlyChanges T s ((t.overrideCommitted i lug station a)).1 ↔ OnlyChanges T s t :=
  OnlyChanges.iff_of (A := [.boards, .notices, .stamps, .publications]) (by
    simp only [State.overrideCommitted]
    repeat' split
    all_goals (try simp)) hT

@[simp] theorem overrideInLine_frame {T : List Field} {s t : State} (e : LugEntry) (station : Fin 8) (a : Option OverrideAction)
    (hT : ∀ f ∈ ([.lugLine, .boards, .solver, .stats, .notices, .stamps, .publications] : List Field), f ∈ T) :
    OnlyChanges T s ((t.overrideInLine e station a)).1 ↔ OnlyChanges T s t :=
  OnlyChanges.iff_of (A := [.lugLine, .boards, .solver, .stats, .notices, .stamps, .publications]) (by
    simp only [State.overrideInLine]
    repeat' split
    all_goals (try simp)) hT

@[simp] theorem overrideStage_frame {T : List Field} {s t : State} (lug : Half) (station : Fin 8) (a : Option OverrideAction)
    (hT : ∀ f ∈ ([.lugLine, .boards, .solver, .held, .stats, .notices, .stamps, .publications] : List Field), f ∈ T) :
    OnlyChanges T s ((t.overrideStage lug station a)).1 ↔ OnlyChanges T s t :=
  OnlyChanges.iff_of (A := [.lugLine, .boards, .solver, .held, .stats, .notices, .stamps, .publications]) (by
    simp only [State.overrideStage]
    repeat' split
    all_goals (try simp)) hT

@[simp] theorem decideOverride_frame {T : List Field} {s t : State} (x : OverrideEntry)
    (hT : ∀ f ∈ ([.lugLine, .boards, .solver, .held, .stats, .notices, .stamps, .publications] : List Field), f ∈ T) :
    OnlyChanges T s ((t.decideOverride x)).1 ↔ OnlyChanges T s t :=
  OnlyChanges.iff_of (A := [.lugLine, .boards, .solver, .held, .stats, .notices, .stamps, .publications]) (by
    simp only [State.decideOverride]
    repeat' split
    all_goals (try simp)) hT

@[simp] theorem takeOverride_frame {T : List Field} {s t : State} (i : Fin 64) (x : OverrideEntry)
    (hT : ∀ f ∈ ([.lugLine, .boards, .solver, .held, .stats, .notices, .stamps, .publications, .shadow] : List Field), f ∈ T) :
    OnlyChanges T s (t.takeOverride i x) ↔ OnlyChanges T s t :=
  OnlyChanges.iff_of (A := [.lugLine, .boards, .solver, .held, .stats, .notices, .stamps, .publications, .shadow]) (by
    simp only [State.takeOverride]
    all_goals (try simp)) hT

@[simp] theorem moveHeld_frame {T : List Field} {s t : State} (n : Half)
    (hT : ∀ f ∈ ([.lugLine, .held] : List Field), f ∈ T) :
    OnlyChanges T s (t.moveHeld n) ↔ OnlyChanges T s t :=
  OnlyChanges.iff_of (A := [.lugLine, .held]) (by
    simp only [State.moveHeld]
    repeat' split
    all_goals (try simp)) hT

@[simp] theorem fixBin_frame {T : List Field} {s t : State} (c : LineConfig) (i : Fin 40)
    (hT : ∀ f ∈ ([.bins, .stamps, .publications] : List Field), f ∈ T) :
    OnlyChanges T s (t.fixBin c i) ↔ OnlyChanges T s t :=
  OnlyChanges.iff_of (A := [.bins, .stamps, .publications]) (by
    simp only [State.fixBin]
    repeat' split
    all_goals (try simp)) hT

@[simp] theorem openFirstRun_frame {T : List Field} {s t : State}
    (hT : ∀ f ∈ ([.runs, .stamps, .publications] : List Field), f ∈ T) :
    OnlyChanges T s t.openFirstRun ↔ OnlyChanges T s t :=
  OnlyChanges.iff_of (A := [.runs, .stamps, .publications]) (by
    simp only [State.openFirstRun]
    repeat' split
    all_goals (try simp)) hT

@[simp] theorem start_frame {T : List Field} {s t : State}
    (hT : ∀ f ∈ ([.lineState, .config, .lugLine, .bins, .runs, .stamps, .publications] : List Field), f ∈ T) :
    OnlyChanges T s t.start ↔ OnlyChanges T s t :=
  OnlyChanges.iff_of (A := [.lineState, .config, .lugLine, .bins, .runs, .stamps, .publications]) (by
    simp only [State.start]
    all_goals (try simp)
    all_goals (intro f hf; cases f <;> first | rfl | (simp at hf))) hT

@[simp] theorem startLine_frame {T : List Field} {s t : State}
    (hT : ∀ f ∈ ([.lineState, .config, .lugLine, .bins, .runs, .stamps, .publications] : List Field), f ∈ T) :
    OnlyChanges T s (t.startLine).1 ↔ OnlyChanges T s t :=
  OnlyChanges.iff_of (A := [.lineState, .config, .lugLine, .bins, .runs, .stamps, .publications]) (by
    simp only [State.startLine]
    repeat' split
    all_goals (try simp)) hT

@[simp] theorem drainLine_frame {T : List Field} {s t : State}
    (hT : ∀ f ∈ ([.lineState, .lugLine, .held, .banks, .notices, .stamps, .publications] : List Field), f ∈ T) :
    OnlyChanges T s (t.drainLine).1 ↔ OnlyChanges T s t :=
  OnlyChanges.iff_of (A := [.lineState, .lugLine, .held, .banks, .notices, .stamps, .publications]) (by
    simp only [State.drainLine]
    repeat' split
    all_goals (try simp)) hT

@[simp] theorem loseBoard_frame {T : List Field} {s t : State} (i : Fin 64)
    (hT : ∀ f ∈ ([.boards, .solver, .runs, .banks, .notices, .stamps, .publications] : List Field), f ∈ T) :
    OnlyChanges T s (t.loseBoard i) ↔ OnlyChanges T s t :=
  OnlyChanges.iff_of (A := [.boards, .solver, .runs, .banks, .notices, .stamps, .publications]) (by
    simp only [State.loseBoard]
    all_goals (try simp)) hT

@[simp] theorem enterIdleByStop_frame {T : List Field} {s t : State}
    (hT : ∀ f ∈ ([.lineState, .lugLine, .held, .logUnit, .notices, .stamps, .publications] : List Field), f ∈ T) :
    OnlyChanges T s t.enterIdleByStop ↔ OnlyChanges T s t :=
  OnlyChanges.iff_of (A := [.lineState, .lugLine, .held, .logUnit, .notices, .stamps, .publications]) (by
    simp only [State.enterIdleByStop]
    all_goals (try simp)
    all_goals (intro f hf; cases f <;> first | rfl | (simp at hf))) hT

@[simp] theorem stop_frame {T : List Field} {s t : State}
    (hT : ∀ f ∈ ([.lineState, .lugLine, .boards, .solver, .held, .logUnit, .runs, .banks, .notices, .stamps, .publications] : List Field), f ∈ T) :
    OnlyChanges T s t.stop ↔ OnlyChanges T s t :=
  OnlyChanges.iff_of (A := [.lineState, .lugLine, .boards, .solver, .held, .logUnit, .runs, .banks, .notices, .stamps, .publications]) (by
    simp only [State.stop]
    all_goals (try simp)) hT

@[simp] theorem stopLine_frame {T : List Field} {s t : State}
    (hT : ∀ f ∈ ([.lineState, .lugLine, .boards, .solver, .held, .logUnit, .runs, .banks, .notices, .stamps, .publications] : List Field), f ∈ T) :
    OnlyChanges T s (t.stopLine).1 ↔ OnlyChanges T s t :=
  OnlyChanges.iff_of (A := [.lineState, .lugLine, .boards, .solver, .held, .logUnit, .runs, .banks, .notices, .stamps, .publications]) (by
    simp only [State.stopLine]
    repeat' split
    all_goals (try simp)) hT

@[simp] theorem acceptSwitch_frame {T : List Field} {s t : State} (k : BankId) (lug : Half)
    (hT : ∀ f ∈ ([.banks, .notices, .stamps, .publications] : List Field), f ∈ T) :
    OnlyChanges T s ((t.acceptSwitch k lug)).1 ↔ OnlyChanges T s t :=
  OnlyChanges.iff_of (A := [.banks, .notices, .stamps, .publications]) (by
    simp only [State.acceptSwitch]
    repeat' split
    all_goals (try simp)) hT

@[simp] theorem bankSwitch_frame {T : List Field} {s t : State} (bank lug : Half)
    (hT : ∀ f ∈ ([.banks, .notices, .stamps, .publications] : List Field), f ∈ T) :
    OnlyChanges T s ((t.bankSwitch bank lug)).1 ↔ OnlyChanges T s t :=
  OnlyChanges.iff_of (A := [.banks, .notices, .stamps, .publications]) (by
    simp only [State.bankSwitch]
    repeat' split
    all_goals (try simp)) hT

@[simp] theorem restartInFlight_frame {T : List Field} {s t : State}
    (hT : ∀ f ∈ ([.boards, .solver, .stats, .stamps, .publications] : List Field), f ∈ T) :
    OnlyChanges T s t.restartInFlight ↔ OnlyChanges T s t :=
  OnlyChanges.iff_of (A := [.boards, .solver, .stats, .stamps, .publications]) (by
    simp only [State.restartInFlight]
    repeat' split
    all_goals (try simp)) hT

@[simp] theorem resolveLost_frame {T : List Field} {s t : State} (mask : SawSet)
    (hT : ∀ f ∈ ([.boards, .solver, .stats, .stamps, .publications] : List Field), f ∈ T) :
    OnlyChanges T s (t.resolveLost mask) ↔ OnlyChanges T s t :=
  OnlyChanges.iff_of (A := [.boards, .solver, .stats, .stamps, .publications]) (by
    simp only [State.resolveLost]
    all_goals (try simp)) hT

@[simp] theorem changeMask_frame {T : List Field} {s t : State} (mask : SawSet)
    (hT : ∀ f ∈ ([.boards, .solver, .stats, .sawMask, .stamps, .publications] : List Field), f ∈ T) :
    OnlyChanges T s (t.changeMask mask) ↔ OnlyChanges T s t :=
  OnlyChanges.iff_of (A := [.boards, .solver, .stats, .sawMask, .stamps, .publications]) (by
    simp only [State.changeMask]
    all_goals (try simp)
    all_goals (intro f hf; cases f <;> first | rfl | (simp at hf))) hT

@[simp] theorem setSawMask_frame {T : List Field} {s t : State} (arg : Half)
    (hT : ∀ f ∈ ([.boards, .solver, .stats, .sawMask, .stamps, .publications] : List Field), f ∈ T) :
    OnlyChanges T s ((t.setSawMask arg)).1 ↔ OnlyChanges T s t :=
  OnlyChanges.iff_of (A := [.boards, .solver, .stats, .sawMask, .stamps, .publications]) (by
    simp only [State.setSawMask]
    repeat' split
    all_goals (try simp)) hT

@[simp] theorem enableHead_frame {T : List Field} {s t : State} (arg : Half) (h : Fin 9)
    (hT : ∀ f ∈ ([.heads, .stamps, .publications] : List Field), f ∈ T) :
    OnlyChanges T s (t.enableHead arg h) ↔ OnlyChanges T s t :=
  OnlyChanges.iff_of (A := [.heads, .stamps, .publications]) (by
    simp only [State.enableHead]
    repeat' split
    all_goals (try simp)) hT

@[simp] theorem headEnable_frame {T : List Field} {s t : State} (arg : Half)
    (hT : ∀ f ∈ ([.lugLine, .boards, .heads, .solver, .stats, .notices, .stamps, .publications] : List Field), f ∈ T) :
    OnlyChanges T s ((t.headEnable arg)).1 ↔ OnlyChanges T s t :=
  OnlyChanges.iff_of (A := [.lugLine, .boards, .heads, .solver, .stats, .notices, .stamps, .publications]) (by
    simp only [State.headEnable]
    repeat' split
    all_goals (try simp)) hT

@[simp] theorem runNew_frame {T : List Field} {s t : State}
    (hT : ∀ f ∈ ([.runs, .stamps, .publications] : List Field), f ∈ T) :
    OnlyChanges T s (t.runNew).1 ↔ OnlyChanges T s t :=
  OnlyChanges.iff_of (A := [.runs, .stamps, .publications]) (by
    simp only [State.runNew]
    repeat' split
    all_goals (try simp)) hT

@[simp] theorem runAdvance_frame {T : List Field} {s t : State}
    (hT : ∀ f ∈ ([.runs, .notices, .stamps, .publications] : List Field), f ∈ T) :
    OnlyChanges T s (t.runAdvance).1 ↔ OnlyChanges T s t :=
  OnlyChanges.iff_of (A := [.runs, .notices, .stamps, .publications]) (by
    simp only [State.runAdvance]
    repeat' split
    all_goals (try simp)) hT

@[simp] theorem binHold_frame {T : List Field} {s t : State} (arg : Half)
    (hT : ∀ f ∈ ([.bins, .stamps, .publications] : List Field), f ∈ T) :
    OnlyChanges T s ((t.binHold arg)).1 ↔ OnlyChanges T s t :=
  OnlyChanges.iff_of (A := [.bins, .stamps, .publications]) (by
    simp only [State.binHold]
    repeat' split
    all_goals (try simp)) hT

@[simp] theorem binEmpty_frame {T : List Field} {s t : State} (arg : Half)
    (hT : ∀ f ∈ ([.bins, .stamps, .publications] : List Field), f ∈ T) :
    OnlyChanges T s ((t.binEmpty arg)).1 ↔ OnlyChanges T s t :=
  OnlyChanges.iff_of (A := [.bins, .stamps, .publications]) (by
    simp only [State.binEmpty]
    repeat' split
    all_goals (try simp)) hT

@[simp] theorem noticeRoute_frame {T : List Field} {s t : State} (kind route : Half)
    (hT : ∀ f ∈ ([.routes] : List Field), f ∈ T) :
    OnlyChanges T s ((t.noticeRoute kind route)).1 ↔ OnlyChanges T s t :=
  OnlyChanges.iff_of (A := [.routes]) (by
    simp only [State.noticeRoute]
    repeat' split
    all_goals (try simp)
    all_goals (intro f hf; cases f <;> first | rfl | (simp at hf))) hT

@[simp] theorem statsClear_frame {T : List Field} {s t : State}
    (hT : ∀ f ∈ ([.stats, .stamps, .publications] : List Field), f ∈ T) :
    OnlyChanges T s (t.statsClear).1 ↔ OnlyChanges T s t :=
  OnlyChanges.iff_of (A := [.stats, .stamps, .publications]) (by
    simp only [State.statsClear]
    all_goals (try simp)
    all_goals (intro f hf; cases f <;> first | rfl | (simp at hf))) hT

@[simp] theorem doCommand_frame {T : List Field} {s t : State} (c : Command)
    (hT : ∀ f ∈ ([.lineState, .config, .lugLine, .boards, .heads, .solver, .held, .bins, .logUnit, .runs, .stats, .banks, .sawMask, .routes, .notices, .stamps, .publications] : List Field), f ∈ T) :
    OnlyChanges T s ((t.doCommand c)).1 ↔ OnlyChanges T s t :=
  OnlyChanges.iff_of (A := [.lineState, .config, .lugLine, .boards, .heads, .solver, .held, .bins, .logUnit, .runs, .stats, .banks, .sawMask, .routes, .notices, .stamps, .publications]) (by
    simp only [State.doCommand]
    repeat' split
    all_goals (try simp)) hT

@[simp] theorem takeCommand_frame {T : List Field} {s t : State} (i : Fin 64) (x : CommandEntry)
    (hT : ∀ f ∈ ([.lineState, .config, .lugLine, .boards, .heads, .solver, .held, .bins, .logUnit, .runs, .stats, .banks, .sawMask, .routes, .notices, .stamps, .publications, .shadow] : List Field), f ∈ T) :
    OnlyChanges T s (t.takeCommand i x) ↔ OnlyChanges T s t :=
  OnlyChanges.iff_of (A := [.lineState, .config, .lugLine, .boards, .heads, .solver, .held, .bins, .logUnit, .runs, .stats, .banks, .sawMask, .routes, .notices, .stamps, .publications, .shadow]) (by
    simp only [State.takeCommand]
    all_goals (try simp)) hT

@[simp] theorem setCounts_frame {T : List Field} {s t : State} (ring : Ring) (x : RingCounts)
    (hT : ∀ f ∈ ([.cmdRing, .ovrRing] : List Field), f ∈ T) :
    OnlyChanges T s (t.setCounts ring x) ↔ OnlyChanges T s t :=
  OnlyChanges.iff_of (A := [.cmdRing, .ovrRing]) (by
    simp only [State.setCounts]
    repeat' split
    all_goals (intro f hf; cases f <;> first | rfl | (simp at hf))) hT

@[simp] theorem takeEntry_frame {T : List Field} {s t : State} (i : Fin 64) (x : RingEntry)
    (hT : ∀ f ∈ ([.lineState, .config, .lugLine, .boards, .heads, .solver, .held, .bins, .logUnit, .runs, .stats, .banks, .sawMask, .routes, .notices, .stamps, .publications, .shadow] : List Field), f ∈ T) :
    OnlyChanges T s (t.takeEntry i x) ↔ OnlyChanges T s t :=
  OnlyChanges.iff_of (A := [.lineState, .config, .lugLine, .boards, .heads, .solver, .held, .bins, .logUnit, .runs, .stats, .banks, .sawMask, .routes, .notices, .stamps, .publications, .shadow]) (by
    simp only [State.takeEntry]
    repeat' split
    all_goals (try simp)) hT

@[simp] theorem takeArrival_frame {T : List Field} {s t : State} (ring : Ring) (c : Half)
    (hT : ∀ f ∈ ([.lineState, .config, .lugLine, .boards, .heads, .solver, .held, .bins, .logUnit, .runs, .stats, .cmdRing, .ovrRing, .banks, .sawMask, .routes, .notices, .stamps, .publications, .shadow] : List Field), f ∈ T) :
    OnlyChanges T s (t.takeArrival ring c) ↔ OnlyChanges T s t :=
  OnlyChanges.iff_of (A := [.lineState, .config, .lugLine, .boards, .heads, .solver, .held, .bins, .logUnit, .runs, .stats, .cmdRing, .ovrRing, .banks, .sawMask, .routes, .notices, .stamps, .publications, .shadow]) (by
    simp only [State.takeArrival]
    repeat' split
    all_goals (try simp)) hT

@[simp] theorem deferArrival_frame {T : List Field} {s t : State} (ring : Ring) (c : Half)
    (hT : ∀ f ∈ ([.cmdRing, .ovrRing] : List Field), f ∈ T) :
    OnlyChanges T s (t.deferArrival ring c) ↔ OnlyChanges T s t :=
  OnlyChanges.iff_of (A := [.cmdRing, .ovrRing]) (by
    simp only [State.deferArrival]
    repeat' split
    all_goals (try simp)) hT

@[simp] theorem countArrival_frame {T : List Field} {s t : State} (ring : Ring)
    (hT : ∀ f ∈ ([.lineState, .config, .lugLine, .boards, .heads, .solver, .held, .bins, .logUnit, .runs, .stats, .cmdRing, .ovrRing, .banks, .sawMask, .routes, .notices, .stamps, .publications, .shadow] : List Field), f ∈ T) :
    OnlyChanges T s (t.countArrival ring) ↔ OnlyChanges T s t :=
  OnlyChanges.iff_of (A := [.lineState, .config, .lugLine, .boards, .heads, .solver, .held, .bins, .logUnit, .runs, .stats, .cmdRing, .ovrRing, .banks, .sawMask, .routes, .notices, .stamps, .publications, .shadow]) (by
    simp only [State.countArrival]
    repeat' split
    all_goals (try simp)) hT

@[simp] theorem takePending_frame {T : List Field} {s t : State} (ring : Ring)
    (hT : ∀ f ∈ ([.lineState, .config, .lugLine, .boards, .heads, .solver, .held, .bins, .logUnit, .runs, .stats, .cmdRing, .ovrRing, .banks, .sawMask, .routes, .notices, .stamps, .publications, .shadow] : List Field), f ∈ T) :
    OnlyChanges T s (t.takePending ring) ↔ OnlyChanges T s t :=
  OnlyChanges.iff_of (A := [.lineState, .config, .lugLine, .boards, .heads, .solver, .held, .bins, .logUnit, .runs, .stats, .cmdRing, .ovrRing, .banks, .sawMask, .routes, .notices, .stamps, .publications, .shadow]) (by
    simp only [State.takePending]
    repeat' split
    all_goals (try simp)) hT

@[simp] theorem masterWrite_frame {T : List Field} {s t : State} (offset : Nat) (bytes : List Byte)
    (hT : ∀ f ∈ ([.ports, .shadow] : List Field), f ∈ T) :
    OnlyChanges T s (t.masterWrite offset bytes) ↔ OnlyChanges T s t :=
  OnlyChanges.iff_of (A := [.ports, .shadow]) (by
    simp only [State.masterWrite]
    all_goals (try simp)) hT

@[simp] theorem giveEntry_frame {T : List Field} {s t : State} (ring : Ring) (bytes : List Byte)
    (hT : ∀ f ∈ ([.lineState, .config, .lugLine, .boards, .heads, .solver, .held, .bins, .logUnit, .runs, .stats, .cmdRing, .ovrRing, .banks, .sawMask, .routes, .notices, .stamps, .publications, .ports, .shadow] : List Field), f ∈ T) :
    OnlyChanges T s (t.giveEntry ring bytes) ↔ OnlyChanges T s t :=
  OnlyChanges.iff_of (A := [.lineState, .config, .lugLine, .boards, .heads, .solver, .held, .bins, .logUnit, .runs, .stats, .cmdRing, .ovrRing, .banks, .sawMask, .routes, .notices, .stamps, .publications, .ports, .shadow]) (by
    simp only [State.giveEntry]
    repeat' split
    all_goals (try simp)) hT

@[simp] theorem giveCommand_frame {T : List Field} {s t : State} (code : Byte) (arg1 arg2 : Half)
    (hT : ∀ f ∈ ([.lineState, .config, .lugLine, .boards, .heads, .solver, .held, .bins, .logUnit, .runs, .stats, .cmdRing, .ovrRing, .banks, .sawMask, .routes, .notices, .stamps, .publications, .ports, .shadow] : List Field), f ∈ T) :
    OnlyChanges T s (t.giveCommand code arg1 arg2) ↔ OnlyChanges T s t :=
  OnlyChanges.iff_of (A := [.lineState, .config, .lugLine, .boards, .heads, .solver, .held, .bins, .logUnit, .runs, .stats, .cmdRing, .ovrRing, .banks, .sawMask, .routes, .notices, .stamps, .publications, .ports, .shadow]) (by
    simp only [State.giveCommand]
    all_goals (try simp)) hT

@[simp] theorem giveOverride_frame {T : List Field} {s t : State} (x : OverrideEntry)
    (hT : ∀ f ∈ ([.lineState, .config, .lugLine, .boards, .heads, .solver, .held, .bins, .logUnit, .runs, .stats, .cmdRing, .ovrRing, .banks, .sawMask, .routes, .notices, .stamps, .publications, .ports, .shadow] : List Field), f ∈ T) :
    OnlyChanges T s (t.giveOverride x) ↔ OnlyChanges T s t :=
  OnlyChanges.iff_of (A := [.lineState, .config, .lugLine, .boards, .heads, .solver, .held, .bins, .logUnit, .runs, .stats, .cmdRing, .ovrRing, .banks, .sawMask, .routes, .notices, .stamps, .publications, .ports, .shadow]) (by
    simp only [State.giveOverride]
    all_goals (try simp)) hT

@[simp] theorem takeGuard_frame {T : List Field} {s t : State} (n : Notice)
    (hT : ∀ f ∈ ([.stats, .notices, .stamps, .publications, .ports] : List Field), f ∈ T) :
    OnlyChanges T s (t.takeGuard n) ↔ OnlyChanges T s t :=
  OnlyChanges.iff_of (A := [.stats, .notices, .stamps, .publications, .ports]) (by
    simp only [State.takeGuard]
    all_goals (try simp)) hT

@[simp] theorem orderGuard_frame {T : List Field} {s t : State} (block : Nat) (n : Notice)
    (hT : ∀ f ∈ ([.stats, .notices, .stamps, .publications, .waitingGuards, .ports] : List Field), f ∈ T) :
    OnlyChanges T s (t.orderGuard block n) ↔ OnlyChanges T s t :=
  OnlyChanges.iff_of (A := [.stats, .notices, .stamps, .publications, .waitingGuards, .ports]) (by
    simp only [State.orderGuard]
    repeat' split
    all_goals (try simp)
    all_goals (intro f hf; cases f <;> first | rfl | (simp at hf))) hT

@[simp] theorem takeGuards_frame {T : List Field} {s t : State} (r : BusRead)
    (hT : ∀ f ∈ ([.stats, .notices, .stamps, .publications, .waitingGuards, .ports] : List Field), f ∈ T) :
    OnlyChanges T s (t.takeGuards r) ↔ OnlyChanges T s t :=
  OnlyChanges.iff_of (A := [.stats, .notices, .stamps, .publications, .waitingGuards, .ports]) (by
    simp only [State.takeGuards]
    all_goals (try simp)
    all_goals (intro f hf; cases f <;> first | rfl | (simp at hf))) hT

@[simp] theorem discardWrite_frame {T : List Field} {s t : State} (x : Area) (o n : Nat)
    (hT : ∀ f ∈ ([.stats, .notices, .stamps, .publications, .waitingGuards, .ports] : List Field), f ∈ T) :
    OnlyChanges T s (t.discardWrite x o n) ↔ OnlyChanges T s t :=
  OnlyChanges.iff_of (A := [.stats, .notices, .stamps, .publications, .waitingGuards, .ports]) (by
    simp only [State.discardWrite]
    all_goals (try simp)) hT

@[simp] theorem frameEvents_frame {T : List Field} {s t : State} (o : Nat) (xs : List Host.Cell)
    (hT : ∀ f ∈ ([.lineState, .lugLine, .boards, .heads, .solver, .held, .logUnit, .runs, .stats, .banks, .notices, .stamps, .publications] : List Field), f ∈ T) :
    OnlyChanges T s (t.frameEvents o xs) ↔ OnlyChanges T s t :=
  OnlyChanges.iff_of (A := [.lineState, .lugLine, .boards, .heads, .solver, .held, .logUnit, .runs, .stats, .banks, .notices, .stamps, .publications]) (by
    simp only [State.frameEvents]
    repeat' split
    all_goals (try simp)) hT

@[simp] theorem captureEvents_frame {T : List Field} {s t : State} (o : Nat) (xs : List Host.Cell)
    (hT : ∀ f ∈ ([.lineState, .config, .lugLine, .boards, .heads, .solver, .held, .bins, .logUnit, .runs, .stats, .cmdRing, .ovrRing, .banks, .sawMask, .routes, .notices, .stamps, .publications, .shadow] : List Field), f ∈ T) :
    OnlyChanges T s (t.captureEvents o xs) ↔ OnlyChanges T s t :=
  OnlyChanges.iff_of (A := [.lineState, .config, .lugLine, .boards, .heads, .solver, .held, .bins, .logUnit, .runs, .stats, .cmdRing, .ovrRing, .banks, .sawMask, .routes, .notices, .stamps, .publications, .shadow]) (by
    simp only [State.captureEvents]
    repeat' split
    all_goals (try simp)) hT

@[simp] theorem passAnswer_frame {T : List Field} {s t : State} (answer : Option Bool)
    (hT : ∀ f ∈ ([.ports] : List Field), f ∈ T) :
    OnlyChanges T s (t.passAnswer answer) ↔ OnlyChanges T s t :=
  OnlyChanges.iff_of (A := [.ports]) (by
    simp only [State.passAnswer]
    repeat' split
    all_goals (try simp)) hT

@[simp] theorem forward_frame {T : List Field} {s t : State} (addr : Nat) (w : BusWrite)
    (hT : ∀ f ∈ ([.ports] : List Field), f ∈ T) :
    OnlyChanges T s (t.forward addr w) ↔ OnlyChanges T s t :=
  OnlyChanges.iff_of (A := [.ports]) (by
    simp only [State.forward]
    all_goals (try simp)) hT

@[simp] theorem captureWrite_frame {T : List Field} {s t : State} (o : Nat) (w : BusWrite)
    (hT : ∀ f ∈ ([.lineState, .config, .lugLine, .boards, .heads, .solver, .held, .bins, .logUnit, .runs, .stats, .cmdRing, .ovrRing, .banks, .sawMask, .routes, .notices, .stamps, .publications, .ports, .shadow] : List Field), f ∈ T) :
    OnlyChanges T s (t.captureWrite o w) ↔ OnlyChanges T s t :=
  OnlyChanges.iff_of (A := [.lineState, .config, .lugLine, .boards, .heads, .solver, .held, .bins, .logUnit, .runs, .stats, .cmdRing, .ovrRing, .banks, .sawMask, .routes, .notices, .stamps, .publications, .ports, .shadow]) (by
    simp only [State.captureWrite]
    repeat' split
    all_goals (try simp)) hT

@[simp] theorem arenaWrite_frame {T : List Field} {s t : State} (o : Nat) (w : BusWrite)
    (hT : ∀ f ∈ ([.lineState, .config, .lugLine, .boards, .heads, .solver, .held, .bins, .logUnit, .runs, .stats, .cmdRing, .ovrRing, .banks, .sawMask, .routes, .notices, .stamps, .publications, .waitingGuards, .ports, .shadow] : List Field), f ∈ T) :
    OnlyChanges T s (t.arenaWrite o w) ↔ OnlyChanges T s t :=
  OnlyChanges.iff_of (A := [.lineState, .config, .lugLine, .boards, .heads, .solver, .held, .bins, .logUnit, .runs, .stats, .cmdRing, .ovrRing, .banks, .sawMask, .routes, .notices, .stamps, .publications, .waitingGuards, .ports, .shadow]) (by
    simp only [State.arenaWrite]
    repeat' split
    all_goals (try simp)) hT

@[simp] theorem upstreamWrite_frame {T : List Field} {s t : State} (w : BusWrite)
    (hT : ∀ f ∈ ([.lineState, .config, .lugLine, .boards, .heads, .solver, .held, .bins, .logUnit, .runs, .stats, .cmdRing, .ovrRing, .banks, .sawMask, .routes, .notices, .stamps, .publications, .waitingGuards, .ports, .shadow] : List Field), f ∈ T) :
    OnlyChanges T s (t.upstreamWrite w) ↔ OnlyChanges T s t :=
  OnlyChanges.iff_of (A := [.lineState, .config, .lugLine, .boards, .heads, .solver, .held, .bins, .logUnit, .runs, .stats, .cmdRing, .ovrRing, .banks, .sawMask, .routes, .notices, .stamps, .publications, .waitingGuards, .ports, .shadow]) (by
    simp only [State.upstreamWrite]
    repeat' split
    all_goals (try simp)) hT

@[simp] theorem beginUnit_frame {T : List Field} {s t : State} (u : InitUnit) (rest : List InitUnit)
    (hT : ∀ f ∈ ([.publications, .initialRest] : List Field), f ∈ T) :
    OnlyChanges T s (t.beginUnit u rest) ↔ OnlyChanges T s t :=
  OnlyChanges.iff_of (A := [.publications, .initialRest]) (by
    simp only [State.beginUnit]
    all_goals (try simp)
    all_goals (intro f hf; cases f <;> first | rfl | (simp at hf))) hT

@[simp] theorem endInit_frame {T : List Field} {s t : State}
    (hT : ∀ f ∈ ([.lineState, .config, .lugLine, .boards, .heads, .solver, .held, .bins, .logUnit, .runs, .stats, .cmdRing, .ovrRing, .banks, .sawMask, .routes, .notices, .stamps, .publications, .shadow] : List Field), f ∈ T) :
    OnlyChanges T s t.endInit ↔ OnlyChanges T s t :=
  OnlyChanges.iff_of (A := [.lineState, .config, .lugLine, .boards, .heads, .solver, .held, .bins, .logUnit, .runs, .stats, .cmdRing, .ovrRing, .banks, .sawMask, .routes, .notices, .stamps, .publications, .shadow]) (by
    simp only [State.endInit]
    all_goals (try simp)) hT

@[simp] theorem continueInit_frame {T : List Field} {s t : State}
    (hT : ∀ f ∈ ([.lineState, .config, .lugLine, .boards, .heads, .solver, .held, .bins, .logUnit, .runs, .stats, .cmdRing, .ovrRing, .banks, .sawMask, .routes, .notices, .stamps, .publications, .initialRest, .shadow] : List Field), f ∈ T) :
    OnlyChanges T s t.continueInit ↔ OnlyChanges T s t :=
  OnlyChanges.iff_of (A := [.lineState, .config, .lugLine, .boards, .heads, .solver, .held, .bins, .logUnit, .runs, .stats, .cmdRing, .ovrRing, .banks, .sawMask, .routes, .notices, .stamps, .publications, .initialRest, .shadow]) (by
    simp only [State.continueInit]
    repeat' split
    all_goals (try simp)) hT

@[simp] theorem answerSlot_frame {T : List Field} {s t : State} (stamp : Half) (r : Record)
    (hT : ∀ f ∈ ([.notices] : List Field), f ∈ T) :
    OnlyChanges T s (t.answerSlot stamp r) ↔ OnlyChanges T s t :=
  OnlyChanges.iff_of (A := [.notices]) (by
    simp only [State.answerSlot]
    repeat' split
    all_goals (try simp)) hT

@[simp] theorem forwardRead_frame {T : List Field} {s t : State} (r : BusRead)
    (hT : ∀ f ∈ ([.openReads, .ports] : List Field), f ∈ T) :
    OnlyChanges T s (t.forwardRead r) ↔ OnlyChanges T s t :=
  OnlyChanges.iff_of (A := [.openReads, .ports]) (by
    simp only [State.forwardRead]
    all_goals (try simp)
    all_goals (intro f hf; cases f <;> first | rfl | (simp at hf))) hT

@[simp] theorem releaseReads_frame {T : List Field} {s t : State} (records : List Record)
    (hT : ∀ f ∈ ([.heldReads, .openReads, .ports] : List Field), f ∈ T) :
    OnlyChanges T s (t.releaseReads records) ↔ OnlyChanges T s t :=
  OnlyChanges.iff_of (A := [.heldReads, .openReads, .ports]) (by
    simp only [State.releaseReads]
    all_goals (try simp)
    all_goals (intro f hf; cases f <;> first | rfl | (simp at hf))) hT

@[simp] theorem afterInitial_frame {T : List Field} {s t : State} (x : PubTarget)
    (hT : ∀ f ∈ ([.lineState, .config, .lugLine, .boards, .heads, .solver, .held, .bins, .logUnit, .runs, .stats, .cmdRing, .ovrRing, .banks, .sawMask, .routes, .notices, .stamps, .publications, .initialRest, .shadow] : List Field), f ∈ T) :
    OnlyChanges T s (t.afterInitial x) ↔ OnlyChanges T s t :=
  OnlyChanges.iff_of (A := [.lineState, .config, .lugLine, .boards, .heads, .solver, .held, .bins, .logUnit, .runs, .stats, .cmdRing, .ovrRing, .banks, .sawMask, .routes, .notices, .stamps, .publications, .initialRest, .shadow]) (by
    simp only [State.afterInitial]
    repeat' split
    all_goals (try simp)) hT

@[simp] theorem copyAnswer_frame {T : List Field} {s t : State} (q : Publication)
    (hT : ∀ f ∈ ([.shadow] : List Field), f ∈ T) :
    OnlyChanges T s (t.copyAnswer q) ↔ OnlyChanges T s t :=
  OnlyChanges.iff_of (A := [.shadow]) (by
    simp only [State.copyAnswer]
    repeat' split
    all_goals (try simp)) hT

@[simp] theorem issueAnswers_frame {T : List Field} {s t : State} (p : Publication)
    (hT : ∀ f ∈ ([.shadow] : List Field), f ∈ T) :
    OnlyChanges T s (t.issueAnswers p) ↔ OnlyChanges T s t :=
  OnlyChanges.iff_of (A := [.shadow]) (by
    simp only [State.issueAnswers]
    all_goals (try simp)) hT

@[simp] theorem retire_frame {T : List Field} {s t : State} (p : Publication)
    (hT : ∀ f ∈ ([.notices, .heldReads, .openReads, .ports] : List Field), f ∈ T) :
    OnlyChanges T s (t.retire p) ↔ OnlyChanges T s t :=
  OnlyChanges.iff_of (A := [.notices, .heldReads, .openReads, .ports]) (by
    simp only [State.retire]
    all_goals (try simp)) hT

@[simp] theorem finishPublication_frame {T : List Field} {s t : State} (k : Nat) (p : Publication)
    (hT : ∀ f ∈ ([.lineState, .config, .lugLine, .boards, .heads, .solver, .held, .bins, .logUnit, .runs, .stats, .cmdRing, .ovrRing, .banks, .sawMask, .routes, .notices, .stamps, .publications, .initialRest, .heldReads, .openReads, .ports, .shadow] : List Field), f ∈ T) :
    OnlyChanges T s (t.finishPublication k p) ↔ OnlyChanges T s t :=
  OnlyChanges.iff_of (A := [.lineState, .config, .lugLine, .boards, .heads, .solver, .held, .bins, .logUnit, .runs, .stats, .cmdRing, .ovrRing, .banks, .sawMask, .routes, .notices, .stamps, .publications, .initialRest, .heldReads, .openReads, .ports, .shadow]) (by
    simp only [State.finishPublication]
    all_goals (try simp)
    all_goals (intro f hf; cases f <;> first | rfl | (simp at hf))) hT

@[simp] theorem answerWrite_frame {T : List Field} {s t : State} (k : Nat) (p : Publication)
    (hT : ∀ f ∈ ([.lineState, .config, .lugLine, .boards, .heads, .solver, .held, .bins, .logUnit, .runs, .stats, .cmdRing, .ovrRing, .banks, .sawMask, .routes, .notices, .stamps, .publications, .initialRest, .heldReads, .openReads, .ports, .shadow] : List Field), f ∈ T) :
    OnlyChanges T s (t.answerWrite k p) ↔ OnlyChanges T s t :=
  OnlyChanges.iff_of (A := [.lineState, .config, .lugLine, .boards, .heads, .solver, .held, .bins, .logUnit, .runs, .stats, .cmdRing, .ovrRing, .banks, .sawMask, .routes, .notices, .stamps, .publications, .initialRest, .heldReads, .openReads, .ports, .shadow]) (by
    simp only [State.answerWrite]
    repeat' split
    all_goals (try simp)
    all_goals (intro f hf; cases f <;> first | rfl | (simp at hf))) hT

@[simp] theorem injectedAnswer_frame {T : List Field} {s t : State} (index : Nat)
    (hT : ∀ f ∈ ([.lineState, .config, .lugLine, .boards, .heads, .solver, .held, .bins, .logUnit, .runs, .stats, .cmdRing, .ovrRing, .banks, .sawMask, .routes, .notices, .stamps, .publications, .initialRest, .heldReads, .openReads, .ports, .shadow] : List Field), f ∈ T) :
    OnlyChanges T s (t.injectedAnswer index) ↔ OnlyChanges T s t :=
  OnlyChanges.iff_of (A := [.lineState, .config, .lugLine, .boards, .heads, .solver, .held, .bins, .logUnit, .runs, .stats, .cmdRing, .ovrRing, .banks, .sawMask, .routes, .notices, .stamps, .publications, .initialRest, .heldReads, .openReads, .ports, .shadow]) (by
    simp only [State.injectedAnswer]
    repeat' split
    all_goals (try simp)) hT

@[simp] theorem release_frame {T : List Field} {s t : State} (arenaSel : BitVec 6)
    (hT : ∀ f ∈ ([.resetLow, .lineState, .config, .lugLine, .boards, .heads, .solver, .held, .bins, .logUnit, .runs, .stats, .cmdRing, .ovrRing, .banks, .sawMask, .routes, .notices, .arenaBase, .stamps, .publications, .initialRest, .shadow] : List Field), f ∈ T) :
    OnlyChanges T s (t.release arenaSel) ↔ OnlyChanges T s t :=
  OnlyChanges.iff_of (A := [.resetLow, .lineState, .config, .lugLine, .boards, .heads, .solver, .held, .bins, .logUnit, .runs, .stats, .cmdRing, .ovrRing, .banks, .sawMask, .routes, .notices, .arenaBase, .stamps, .publications, .initialRest, .shadow]) (by
    simp only [State.release]
    repeat' split
    all_goals (try simp)
    all_goals (intro f hf; cases f <;> first | rfl | (simp at hf))) hT

@[simp] theorem writeOut_frame {T : List Field} {s t : State} (xs : List InjectedWrite) (p : Publication)
    (hT : ∀ f ∈ ([.notices, .heldReads, .openReads, .ports] : List Field), f ∈ T) :
    OnlyChanges T s (t.writeOut xs p) ↔ OnlyChanges T s t :=
  OnlyChanges.iff_of (A := [.notices, .heldReads, .openReads, .ports]) (by
    simp only [State.writeOut]
    all_goals (try simp)) hT

@[simp] theorem writeBegun_frame {T : List Field} {s t : State}
    (hT : ∀ f ∈ ([.notices, .publications, .heldReads, .openReads, .ports] : List Field), f ∈ T) :
    OnlyChanges T s t.writeBegun ↔ OnlyChanges T s t :=
  OnlyChanges.iff_of (A := [.notices, .publications, .heldReads, .openReads, .ports]) (by
    simp only [State.writeBegun]
    all_goals (try simp)
    all_goals (intro f hf; cases f <;> first | rfl | (simp at hf))) hT

@[simp] theorem writeUnit_frame {T : List Field} {s t : State} (u : InitUnit)
    (hT : ∀ f ∈ ([.notices, .initialRest, .heldReads, .openReads, .ports] : List Field), f ∈ T) :
    OnlyChanges T s (t.writeUnit u) ↔ OnlyChanges T s t :=
  OnlyChanges.iff_of (A := [.notices, .initialRest, .heldReads, .openReads, .ports]) (by
    simp only [State.writeUnit]
    all_goals (try simp)
    all_goals (intro f hf; cases f <;> first | rfl | (simp at hf))) hT

@[simp] theorem completeInit_frame {T : List Field} {s t : State}
    (hT : ∀ f ∈ ([.lineState, .config, .lugLine, .boards, .heads, .solver, .held, .bins, .logUnit, .runs, .stats, .cmdRing, .ovrRing, .banks, .sawMask, .routes, .notices, .stamps, .publications, .initialRest, .heldReads, .openReads, .ports, .shadow] : List Field), f ∈ T) :
    OnlyChanges T s t.completeInit ↔ OnlyChanges T s t :=
  OnlyChanges.iff_of (A := [.lineState, .config, .lugLine, .boards, .heads, .solver, .held, .bins, .logUnit, .runs, .stats, .cmdRing, .ovrRing, .banks, .sawMask, .routes, .notices, .stamps, .publications, .initialRest, .heldReads, .openReads, .ports, .shadow]) (by
    simp only [State.completeInit]
    repeat' split
    all_goals (try simp)) hT

@[simp] theorem consumeHead_frame {T : List Field} {s t : State} (h : Fin 9) (header : List Byte)
    (hT : ∀ f ∈ ([.heads, .stamps, .publications] : List Field), f ∈ T) :
    OnlyChanges T s (t.consumeHead h header) ↔ OnlyChanges T s t :=
  OnlyChanges.iff_of (A := [.heads, .stamps, .publications]) (by
    simp only [State.consumeHead]
    repeat' split
    all_goals (try simp)) hT

@[simp] theorem freeRun_frame {T : List Field} {s t : State} (r : Fin 8)
    (hT : ∀ f ∈ ([.runs, .stamps, .publications] : List Field), f ∈ T) :
    OnlyChanges T s (t.freeRun r) ↔ OnlyChanges T s t :=
  OnlyChanges.iff_of (A := [.runs, .stamps, .publications]) (by
    simp only [State.freeRun]
    all_goals (try simp)
    all_goals (intro f hf; cases f <;> first | rfl | (simp at hf))) hT

@[simp] theorem consumeRun_frame {T : List Field} {s t : State} (r : Fin 8) (header : List Byte)
    (hT : ∀ f ∈ ([.runs, .stamps, .publications] : List Field), f ∈ T) :
    OnlyChanges T s (t.consumeRun r header) ↔ OnlyChanges T s t :=
  OnlyChanges.iff_of (A := [.runs, .stamps, .publications]) (by
    simp only [State.consumeRun]
    repeat' split
    all_goals (try simp)) hT

@[simp] theorem removeOldest_frame {T : List Field} {s t : State} (ring : Fin 2)
    (hT : ∀ f ∈ ([.notices, .stamps, .publications] : List Field), f ∈ T) :
    OnlyChanges T s (t.removeOldest ring) ↔ OnlyChanges T s t :=
  OnlyChanges.iff_of (A := [.notices, .stamps, .publications]) (by
    simp only [State.removeOldest]
    all_goals (try simp)) hT

@[simp] theorem consumeNotice_frame {T : List Field} {s t : State} (ring : Fin 2) (slot : Fin 32) (header : List Byte)
    (hT : ∀ f ∈ ([.notices, .stamps, .publications] : List Field), f ∈ T) :
    OnlyChanges T s (t.consumeNotice ring slot header) ↔ OnlyChanges T s t :=
  OnlyChanges.iff_of (A := [.notices, .stamps, .publications]) (by
    simp only [State.consumeNotice]
    repeat' split
    all_goals (try simp)) hT

@[simp] theorem handHeader_frame {T : List Field} {s t : State} (r : Record) (header : List Byte)
    (hT : ∀ f ∈ ([.heads, .trimRing, .sortRing, .runs, .notices, .stamps, .publications] : List Field), f ∈ T) :
    OnlyChanges T s (t.handHeader r header) ↔ OnlyChanges T s t :=
  OnlyChanges.iff_of (A := [.heads, .trimRing, .sortRing, .runs, .notices, .stamps, .publications]) (by
    simp only [State.handHeader]
    repeat' split
    all_goals (try simp)) hT

@[simp] theorem acceptRead_frame {T : List Field} {s t : State} (r : BusRead)
    (hT : ∀ f ∈ ([.heldReads, .openReads, .ports] : List Field), f ∈ T) :
    OnlyChanges T s (t.acceptRead r) ↔ OnlyChanges T s t :=
  OnlyChanges.iff_of (A := [.heldReads, .openReads, .ports]) (by
    simp only [State.acceptRead]
    repeat' split
    all_goals (try simp)
    all_goals (intro f hf; cases f <;> first | rfl | (simp at hf))) hT

@[simp] theorem handCovered_frame {T : List Field} {s t : State} (r : BusRead) (good : Bool) (data : List Byte)
    (hT : ∀ f ∈ ([.heads, .trimRing, .sortRing, .runs, .notices, .stamps, .publications] : List Field), f ∈ T) :
    OnlyChanges T s (t.handCovered r good data) ↔ OnlyChanges T s t :=
  OnlyChanges.iff_of (A := [.heads, .trimRing, .sortRing, .runs, .notices, .stamps, .publications]) (by
    simp only [State.handCovered]
    repeat' split
    all_goals (try simp)) hT

@[simp] theorem answerRead_frame {T : List Field} {s t : State} (r : BusRead) (good : Bool) (data : List Byte)
    (hT : ∀ f ∈ ([.heads, .trimRing, .sortRing, .runs, .stats, .notices, .stamps, .publications, .openReads, .waitingGuards, .ports] : List Field), f ∈ T) :
    OnlyChanges T s (t.answerRead r good data) ↔ OnlyChanges T s t :=
  OnlyChanges.iff_of (A := [.heads, .trimRing, .sortRing, .runs, .stats, .notices, .stamps, .publications, .openReads, .waitingGuards, .ports]) (by
    simp only [State.answerRead]
    repeat' split
    all_goals (try simp)
    all_goals (intro f hf; cases f <;> first | rfl | (simp at hf))) hT

@[simp] theorem upstreamRead_frame {T : List Field} {s t : State} (e : ReadEvent)
    (hT : ∀ f ∈ ([.heads, .trimRing, .sortRing, .runs, .stats, .notices, .stamps, .publications, .heldReads, .openReads, .waitingGuards, .ports] : List Field), f ∈ T) :
    OnlyChanges T s (t.upstreamRead e) ↔ OnlyChanges T s t :=
  OnlyChanges.iff_of (A := [.heads, .trimRing, .sortRing, .runs, .stats, .notices, .stamps, .publications, .heldReads, .openReads, .waitingGuards, .ports]) (by
    simp only [State.upstreamRead]
    repeat' split
    all_goals (try simp)) hT

@[simp] theorem commitPosition_frame {T : List Field} {s t : State} (lug : Half)
    (hT : ∀ f ∈ ([.lugLine, .boards, .solver, .trimRing, .runs, .stats, .notices, .stamps, .publications] : List Field), f ∈ T) :
    OnlyChanges T s (t.commitPosition lug) ↔ OnlyChanges T s t :=
  OnlyChanges.iff_of (A := [.lugLine, .boards, .solver, .trimRing, .runs, .stats, .notices, .stamps, .publications]) (by
    simp only [State.commitPosition]
    repeat' split
    all_goals (try simp)) hT

@[simp] theorem lugTask_frame {T : List Field} {s t : State} (x : LugTask)
    (hT : ∀ f ∈ ([.lineState, .lugLine, .boards, .solver, .held, .trimRing, .sortRing, .bins, .runs, .stats, .banks, .notices, .stamps, .publications] : List Field), f ∈ T) :
    OnlyChanges T s (t.lugTask x) ↔ OnlyChanges T s t :=
  OnlyChanges.iff_of (A := [.lineState, .lugLine, .boards, .solver, .held, .trimRing, .sortRing, .bins, .runs, .stats, .banks, .notices, .stamps, .publications]) (by
    simp only [State.lugTask]
    repeat' split
    all_goals (try simp)) hT

@[simp] theorem newLug_frame {T : List Field} {s t : State}
    (hT : ∀ f ∈ ([.lc, .lugLine, .stats] : List Field), f ∈ T) :
    OnlyChanges T s t.newLug ↔ OnlyChanges T s t :=
  OnlyChanges.iff_of (A := [.lc, .lugLine, .stats]) (by
    simp only [State.newLug]
    all_goals (try simp)
    all_goals (intro f hf; cases f <;> first | rfl | (simp at hf))) hT

@[simp] theorem lugEvent_frame {T : List Field} {s t : State} (order : List LugTask)
    (hT : ∀ f ∈ ([.lineState, .lc, .lugLine, .boards, .solver, .held, .trimRing, .sortRing, .bins, .runs, .stats, .banks, .notices, .stamps, .publications] : List Field), f ∈ T) :
    OnlyChanges T s (t.lugEvent order) ↔ OnlyChanges T s t :=
  OnlyChanges.iff_of (A := [.lineState, .lc, .lugLine, .boards, .solver, .held, .trimRing, .sortRing, .bins, .runs, .stats, .banks, .notices, .stamps, .publications]) (by
    simp only [State.lugEvent]
    repeat' split
    all_goals (try simp)) hT

end Sys2Proof.Machine
end

