-- ==== Sys2Proof/Laws/Fields.lean ====
section
/-! SUPPORT. Each field of State after a publication, a notice raised and an answer written: unchanged, but for those
the operation is for. -/

namespace Sys2Proof.Machine

@[simp] theorem publish_pending (s : State) (o : FunctionalBlock) (r : Record) : (s.publish o r).pending = s.pending :=
  (((publish_frame (T := [.stamps, .publications]) (s := s) o r (by simp)).mpr (OnlyChanges.refl _ s)) .pending (by simp))
@[simp] theorem publish_resetLow (s : State) (o : FunctionalBlock) (r : Record) : (s.publish o r).resetLow = s.resetLow :=
  (((publish_frame (T := [.stamps, .publications]) (s := s) o r (by simp)).mpr (OnlyChanges.refl _ s)) .resetLow (by simp))
@[simp] theorem publish_lineState (s : State) (o : FunctionalBlock) (r : Record) : (s.publish o r).lineState = s.lineState :=
  (((publish_frame (T := [.stamps, .publications]) (s := s) o r (by simp)).mpr (OnlyChanges.refl _ s)) .lineState (by simp))
@[simp] theorem publish_lc (s : State) (o : FunctionalBlock) (r : Record) : (s.publish o r).lc = s.lc :=
  (((publish_frame (T := [.stamps, .publications]) (s := s) o r (by simp)).mpr (OnlyChanges.refl _ s)) .lc (by simp))
@[simp] theorem publish_config (s : State) (o : FunctionalBlock) (r : Record) : (s.publish o r).config = s.config :=
  (((publish_frame (T := [.stamps, .publications]) (s := s) o r (by simp)).mpr (OnlyChanges.refl _ s)) .config (by simp))
@[simp] theorem publish_lugLine (s : State) (o : FunctionalBlock) (r : Record) : (s.publish o r).lugLine = s.lugLine :=
  (((publish_frame (T := [.stamps, .publications]) (s := s) o r (by simp)).mpr (OnlyChanges.refl _ s)) .lugLine (by simp))
@[simp] theorem publish_boards (s : State) (o : FunctionalBlock) (r : Record) : (s.publish o r).boards = s.boards :=
  (((publish_frame (T := [.stamps, .publications]) (s := s) o r (by simp)).mpr (OnlyChanges.refl _ s)) .boards (by simp))
@[simp] theorem publish_heads (s : State) (o : FunctionalBlock) (r : Record) : (s.publish o r).heads = s.heads :=
  (((publish_frame (T := [.stamps, .publications]) (s := s) o r (by simp)).mpr (OnlyChanges.refl _ s)) .heads (by simp))
@[simp] theorem publish_solver (s : State) (o : FunctionalBlock) (r : Record) : (s.publish o r).solver = s.solver :=
  (((publish_frame (T := [.stamps, .publications]) (s := s) o r (by simp)).mpr (OnlyChanges.refl _ s)) .solver (by simp))
@[simp] theorem publish_held (s : State) (o : FunctionalBlock) (r : Record) : (s.publish o r).held = s.held :=
  (((publish_frame (T := [.stamps, .publications]) (s := s) o r (by simp)).mpr (OnlyChanges.refl _ s)) .held (by simp))
@[simp] theorem publish_trimRing (s : State) (o : FunctionalBlock) (r : Record) : (s.publish o r).trimRing = s.trimRing :=
  (((publish_frame (T := [.stamps, .publications]) (s := s) o r (by simp)).mpr (OnlyChanges.refl _ s)) .trimRing (by simp))
@[simp] theorem publish_sortRing (s : State) (o : FunctionalBlock) (r : Record) : (s.publish o r).sortRing = s.sortRing :=
  (((publish_frame (T := [.stamps, .publications]) (s := s) o r (by simp)).mpr (OnlyChanges.refl _ s)) .sortRing (by simp))
@[simp] theorem publish_bins (s : State) (o : FunctionalBlock) (r : Record) : (s.publish o r).bins = s.bins :=
  (((publish_frame (T := [.stamps, .publications]) (s := s) o r (by simp)).mpr (OnlyChanges.refl _ s)) .bins (by simp))
@[simp] theorem publish_logUnit (s : State) (o : FunctionalBlock) (r : Record) : (s.publish o r).logUnit = s.logUnit :=
  (((publish_frame (T := [.stamps, .publications]) (s := s) o r (by simp)).mpr (OnlyChanges.refl _ s)) .logUnit (by simp))
@[simp] theorem publish_runs (s : State) (o : FunctionalBlock) (r : Record) : (s.publish o r).runs = s.runs :=
  (((publish_frame (T := [.stamps, .publications]) (s := s) o r (by simp)).mpr (OnlyChanges.refl _ s)) .runs (by simp))
@[simp] theorem publish_stats (s : State) (o : FunctionalBlock) (r : Record) : (s.publish o r).stats = s.stats :=
  (((publish_frame (T := [.stamps, .publications]) (s := s) o r (by simp)).mpr (OnlyChanges.refl _ s)) .stats (by simp))
@[simp] theorem publish_cmdRing (s : State) (o : FunctionalBlock) (r : Record) : (s.publish o r).cmdRing = s.cmdRing :=
  (((publish_frame (T := [.stamps, .publications]) (s := s) o r (by simp)).mpr (OnlyChanges.refl _ s)) .cmdRing (by simp))
@[simp] theorem publish_ovrRing (s : State) (o : FunctionalBlock) (r : Record) : (s.publish o r).ovrRing = s.ovrRing :=
  (((publish_frame (T := [.stamps, .publications]) (s := s) o r (by simp)).mpr (OnlyChanges.refl _ s)) .ovrRing (by simp))
@[simp] theorem publish_banks (s : State) (o : FunctionalBlock) (r : Record) : (s.publish o r).banks = s.banks :=
  (((publish_frame (T := [.stamps, .publications]) (s := s) o r (by simp)).mpr (OnlyChanges.refl _ s)) .banks (by simp))
@[simp] theorem publish_sawMask (s : State) (o : FunctionalBlock) (r : Record) : (s.publish o r).sawMask = s.sawMask :=
  (((publish_frame (T := [.stamps, .publications]) (s := s) o r (by simp)).mpr (OnlyChanges.refl _ s)) .sawMask (by simp))
@[simp] theorem publish_routes (s : State) (o : FunctionalBlock) (r : Record) : (s.publish o r).routes = s.routes :=
  (((publish_frame (T := [.stamps, .publications]) (s := s) o r (by simp)).mpr (OnlyChanges.refl _ s)) .routes (by simp))
@[simp] theorem publish_notices (s : State) (o : FunctionalBlock) (r : Record) : (s.publish o r).notices = s.notices :=
  (((publish_frame (T := [.stamps, .publications]) (s := s) o r (by simp)).mpr (OnlyChanges.refl _ s)) .notices (by simp))
@[simp] theorem publish_shadow (s : State) (o : FunctionalBlock) (r : Record) : (s.publish o r).shadow = s.shadow :=
  (((publish_frame (T := [.stamps, .publications]) (s := s) o r (by simp)).mpr (OnlyChanges.refl _ s)) .shadow (by simp))
@[simp] theorem publish_arenaBase (s : State) (o : FunctionalBlock) (r : Record) : (s.publish o r).path.arenaBase = s.path.arenaBase :=
  (((publish_frame (T := [.stamps, .publications]) (s := s) o r (by simp)).mpr (OnlyChanges.refl _ s)) .arenaBase (by simp))
@[simp] theorem publish_initialRest (s : State) (o : FunctionalBlock) (r : Record) : (s.publish o r).path.initialRest = s.path.initialRest :=
  (((publish_frame (T := [.stamps, .publications]) (s := s) o r (by simp)).mpr (OnlyChanges.refl _ s)) .initialRest (by simp))
@[simp] theorem publish_heldReads (s : State) (o : FunctionalBlock) (r : Record) : (s.publish o r).path.heldReads = s.path.heldReads :=
  (((publish_frame (T := [.stamps, .publications]) (s := s) o r (by simp)).mpr (OnlyChanges.refl _ s)) .heldReads (by simp))
@[simp] theorem publish_openReads (s : State) (o : FunctionalBlock) (r : Record) : (s.publish o r).path.openReads = s.path.openReads :=
  (((publish_frame (T := [.stamps, .publications]) (s := s) o r (by simp)).mpr (OnlyChanges.refl _ s)) .openReads (by simp))
@[simp] theorem publish_waitingGuards (s : State) (o : FunctionalBlock) (r : Record) : (s.publish o r).path.waitingGuards = s.path.waitingGuards :=
  (((publish_frame (T := [.stamps, .publications]) (s := s) o r (by simp)).mpr (OnlyChanges.refl _ s)) .waitingGuards (by simp))
@[simp] theorem publish_event (s : State) (o : FunctionalBlock) (r : Record) : (s.publish o r).path.event = s.path.event :=
  (((publish_frame (T := [.stamps, .publications]) (s := s) o r (by simp)).mpr (OnlyChanges.refl _ s)) .event (by simp))
@[simp] theorem publish_ports (s : State) (o : FunctionalBlock) (r : Record) : (s.publish o r).path.ports = s.path.ports :=
  (((publish_frame (T := [.stamps, .publications]) (s := s) o r (by simp)).mpr (OnlyChanges.refl _ s)) .ports (by simp))

@[simp] theorem raise_pending (s : State) (n : Notice) : (s.raise n).pending = s.pending :=
  (((raise_frame (T := [.notices, .stamps, .publications]) (s := s) n (by simp)).mpr (OnlyChanges.refl _ s)) .pending (by simp))
@[simp] theorem raise_resetLow (s : State) (n : Notice) : (s.raise n).resetLow = s.resetLow :=
  (((raise_frame (T := [.notices, .stamps, .publications]) (s := s) n (by simp)).mpr (OnlyChanges.refl _ s)) .resetLow (by simp))
@[simp] theorem raise_lineState (s : State) (n : Notice) : (s.raise n).lineState = s.lineState :=
  (((raise_frame (T := [.notices, .stamps, .publications]) (s := s) n (by simp)).mpr (OnlyChanges.refl _ s)) .lineState (by simp))
@[simp] theorem raise_lc (s : State) (n : Notice) : (s.raise n).lc = s.lc :=
  (((raise_frame (T := [.notices, .stamps, .publications]) (s := s) n (by simp)).mpr (OnlyChanges.refl _ s)) .lc (by simp))
@[simp] theorem raise_config (s : State) (n : Notice) : (s.raise n).config = s.config :=
  (((raise_frame (T := [.notices, .stamps, .publications]) (s := s) n (by simp)).mpr (OnlyChanges.refl _ s)) .config (by simp))
@[simp] theorem raise_lugLine (s : State) (n : Notice) : (s.raise n).lugLine = s.lugLine :=
  (((raise_frame (T := [.notices, .stamps, .publications]) (s := s) n (by simp)).mpr (OnlyChanges.refl _ s)) .lugLine (by simp))
@[simp] theorem raise_boards (s : State) (n : Notice) : (s.raise n).boards = s.boards :=
  (((raise_frame (T := [.notices, .stamps, .publications]) (s := s) n (by simp)).mpr (OnlyChanges.refl _ s)) .boards (by simp))
@[simp] theorem raise_heads (s : State) (n : Notice) : (s.raise n).heads = s.heads :=
  (((raise_frame (T := [.notices, .stamps, .publications]) (s := s) n (by simp)).mpr (OnlyChanges.refl _ s)) .heads (by simp))
@[simp] theorem raise_solver (s : State) (n : Notice) : (s.raise n).solver = s.solver :=
  (((raise_frame (T := [.notices, .stamps, .publications]) (s := s) n (by simp)).mpr (OnlyChanges.refl _ s)) .solver (by simp))
@[simp] theorem raise_held (s : State) (n : Notice) : (s.raise n).held = s.held :=
  (((raise_frame (T := [.notices, .stamps, .publications]) (s := s) n (by simp)).mpr (OnlyChanges.refl _ s)) .held (by simp))
@[simp] theorem raise_trimRing (s : State) (n : Notice) : (s.raise n).trimRing = s.trimRing :=
  (((raise_frame (T := [.notices, .stamps, .publications]) (s := s) n (by simp)).mpr (OnlyChanges.refl _ s)) .trimRing (by simp))
@[simp] theorem raise_sortRing (s : State) (n : Notice) : (s.raise n).sortRing = s.sortRing :=
  (((raise_frame (T := [.notices, .stamps, .publications]) (s := s) n (by simp)).mpr (OnlyChanges.refl _ s)) .sortRing (by simp))
@[simp] theorem raise_bins (s : State) (n : Notice) : (s.raise n).bins = s.bins :=
  (((raise_frame (T := [.notices, .stamps, .publications]) (s := s) n (by simp)).mpr (OnlyChanges.refl _ s)) .bins (by simp))
@[simp] theorem raise_logUnit (s : State) (n : Notice) : (s.raise n).logUnit = s.logUnit :=
  (((raise_frame (T := [.notices, .stamps, .publications]) (s := s) n (by simp)).mpr (OnlyChanges.refl _ s)) .logUnit (by simp))
@[simp] theorem raise_runs (s : State) (n : Notice) : (s.raise n).runs = s.runs :=
  (((raise_frame (T := [.notices, .stamps, .publications]) (s := s) n (by simp)).mpr (OnlyChanges.refl _ s)) .runs (by simp))
@[simp] theorem raise_stats (s : State) (n : Notice) : (s.raise n).stats = s.stats :=
  (((raise_frame (T := [.notices, .stamps, .publications]) (s := s) n (by simp)).mpr (OnlyChanges.refl _ s)) .stats (by simp))
@[simp] theorem raise_cmdRing (s : State) (n : Notice) : (s.raise n).cmdRing = s.cmdRing :=
  (((raise_frame (T := [.notices, .stamps, .publications]) (s := s) n (by simp)).mpr (OnlyChanges.refl _ s)) .cmdRing (by simp))
@[simp] theorem raise_ovrRing (s : State) (n : Notice) : (s.raise n).ovrRing = s.ovrRing :=
  (((raise_frame (T := [.notices, .stamps, .publications]) (s := s) n (by simp)).mpr (OnlyChanges.refl _ s)) .ovrRing (by simp))
@[simp] theorem raise_banks (s : State) (n : Notice) : (s.raise n).banks = s.banks :=
  (((raise_frame (T := [.notices, .stamps, .publications]) (s := s) n (by simp)).mpr (OnlyChanges.refl _ s)) .banks (by simp))
@[simp] theorem raise_sawMask (s : State) (n : Notice) : (s.raise n).sawMask = s.sawMask :=
  (((raise_frame (T := [.notices, .stamps, .publications]) (s := s) n (by simp)).mpr (OnlyChanges.refl _ s)) .sawMask (by simp))
@[simp] theorem raise_routes (s : State) (n : Notice) : (s.raise n).routes = s.routes :=
  (((raise_frame (T := [.notices, .stamps, .publications]) (s := s) n (by simp)).mpr (OnlyChanges.refl _ s)) .routes (by simp))
@[simp] theorem raise_shadow (s : State) (n : Notice) : (s.raise n).shadow = s.shadow :=
  (((raise_frame (T := [.notices, .stamps, .publications]) (s := s) n (by simp)).mpr (OnlyChanges.refl _ s)) .shadow (by simp))
@[simp] theorem raise_arenaBase (s : State) (n : Notice) : (s.raise n).path.arenaBase = s.path.arenaBase :=
  (((raise_frame (T := [.notices, .stamps, .publications]) (s := s) n (by simp)).mpr (OnlyChanges.refl _ s)) .arenaBase (by simp))
@[simp] theorem raise_initialRest (s : State) (n : Notice) : (s.raise n).path.initialRest = s.path.initialRest :=
  (((raise_frame (T := [.notices, .stamps, .publications]) (s := s) n (by simp)).mpr (OnlyChanges.refl _ s)) .initialRest (by simp))
@[simp] theorem raise_heldReads (s : State) (n : Notice) : (s.raise n).path.heldReads = s.path.heldReads :=
  (((raise_frame (T := [.notices, .stamps, .publications]) (s := s) n (by simp)).mpr (OnlyChanges.refl _ s)) .heldReads (by simp))
@[simp] theorem raise_openReads (s : State) (n : Notice) : (s.raise n).path.openReads = s.path.openReads :=
  (((raise_frame (T := [.notices, .stamps, .publications]) (s := s) n (by simp)).mpr (OnlyChanges.refl _ s)) .openReads (by simp))
@[simp] theorem raise_waitingGuards (s : State) (n : Notice) : (s.raise n).path.waitingGuards = s.path.waitingGuards :=
  (((raise_frame (T := [.notices, .stamps, .publications]) (s := s) n (by simp)).mpr (OnlyChanges.refl _ s)) .waitingGuards (by simp))
@[simp] theorem raise_event (s : State) (n : Notice) : (s.raise n).path.event = s.path.event :=
  (((raise_frame (T := [.notices, .stamps, .publications]) (s := s) n (by simp)).mpr (OnlyChanges.refl _ s)) .event (by simp))
@[simp] theorem raise_ports (s : State) (n : Notice) : (s.raise n).path.ports = s.path.ports :=
  (((raise_frame (T := [.notices, .stamps, .publications]) (s := s) n (by simp)).mpr (OnlyChanges.refl _ s)) .ports (by simp))

@[simp] theorem writeAnswer_pending (s : State) (o : FunctionalBlock) (k : PubTarget) (a : Nat) (xs : List Byte) : (s.writeAnswer o k a xs).pending = s.pending :=
  (((writeAnswer_frame (T := [.publications, .shadow]) (s := s) o k a xs (by simp)).mpr (OnlyChanges.refl _ s)) .pending (by simp))
@[simp] theorem writeAnswer_resetLow (s : State) (o : FunctionalBlock) (k : PubTarget) (a : Nat) (xs : List Byte) : (s.writeAnswer o k a xs).resetLow = s.resetLow :=
  (((writeAnswer_frame (T := [.publications, .shadow]) (s := s) o k a xs (by simp)).mpr (OnlyChanges.refl _ s)) .resetLow (by simp))
@[simp] theorem writeAnswer_lineState (s : State) (o : FunctionalBlock) (k : PubTarget) (a : Nat) (xs : List Byte) : (s.writeAnswer o k a xs).lineState = s.lineState :=
  (((writeAnswer_frame (T := [.publications, .shadow]) (s := s) o k a xs (by simp)).mpr (OnlyChanges.refl _ s)) .lineState (by simp))
@[simp] theorem writeAnswer_lc (s : State) (o : FunctionalBlock) (k : PubTarget) (a : Nat) (xs : List Byte) : (s.writeAnswer o k a xs).lc = s.lc :=
  (((writeAnswer_frame (T := [.publications, .shadow]) (s := s) o k a xs (by simp)).mpr (OnlyChanges.refl _ s)) .lc (by simp))
@[simp] theorem writeAnswer_config (s : State) (o : FunctionalBlock) (k : PubTarget) (a : Nat) (xs : List Byte) : (s.writeAnswer o k a xs).config = s.config :=
  (((writeAnswer_frame (T := [.publications, .shadow]) (s := s) o k a xs (by simp)).mpr (OnlyChanges.refl _ s)) .config (by simp))
@[simp] theorem writeAnswer_lugLine (s : State) (o : FunctionalBlock) (k : PubTarget) (a : Nat) (xs : List Byte) : (s.writeAnswer o k a xs).lugLine = s.lugLine :=
  (((writeAnswer_frame (T := [.publications, .shadow]) (s := s) o k a xs (by simp)).mpr (OnlyChanges.refl _ s)) .lugLine (by simp))
@[simp] theorem writeAnswer_boards (s : State) (o : FunctionalBlock) (k : PubTarget) (a : Nat) (xs : List Byte) : (s.writeAnswer o k a xs).boards = s.boards :=
  (((writeAnswer_frame (T := [.publications, .shadow]) (s := s) o k a xs (by simp)).mpr (OnlyChanges.refl _ s)) .boards (by simp))
@[simp] theorem writeAnswer_heads (s : State) (o : FunctionalBlock) (k : PubTarget) (a : Nat) (xs : List Byte) : (s.writeAnswer o k a xs).heads = s.heads :=
  (((writeAnswer_frame (T := [.publications, .shadow]) (s := s) o k a xs (by simp)).mpr (OnlyChanges.refl _ s)) .heads (by simp))
@[simp] theorem writeAnswer_solver (s : State) (o : FunctionalBlock) (k : PubTarget) (a : Nat) (xs : List Byte) : (s.writeAnswer o k a xs).solver = s.solver :=
  (((writeAnswer_frame (T := [.publications, .shadow]) (s := s) o k a xs (by simp)).mpr (OnlyChanges.refl _ s)) .solver (by simp))
@[simp] theorem writeAnswer_held (s : State) (o : FunctionalBlock) (k : PubTarget) (a : Nat) (xs : List Byte) : (s.writeAnswer o k a xs).held = s.held :=
  (((writeAnswer_frame (T := [.publications, .shadow]) (s := s) o k a xs (by simp)).mpr (OnlyChanges.refl _ s)) .held (by simp))
@[simp] theorem writeAnswer_trimRing (s : State) (o : FunctionalBlock) (k : PubTarget) (a : Nat) (xs : List Byte) : (s.writeAnswer o k a xs).trimRing = s.trimRing :=
  (((writeAnswer_frame (T := [.publications, .shadow]) (s := s) o k a xs (by simp)).mpr (OnlyChanges.refl _ s)) .trimRing (by simp))
@[simp] theorem writeAnswer_sortRing (s : State) (o : FunctionalBlock) (k : PubTarget) (a : Nat) (xs : List Byte) : (s.writeAnswer o k a xs).sortRing = s.sortRing :=
  (((writeAnswer_frame (T := [.publications, .shadow]) (s := s) o k a xs (by simp)).mpr (OnlyChanges.refl _ s)) .sortRing (by simp))
@[simp] theorem writeAnswer_bins (s : State) (o : FunctionalBlock) (k : PubTarget) (a : Nat) (xs : List Byte) : (s.writeAnswer o k a xs).bins = s.bins :=
  (((writeAnswer_frame (T := [.publications, .shadow]) (s := s) o k a xs (by simp)).mpr (OnlyChanges.refl _ s)) .bins (by simp))
@[simp] theorem writeAnswer_logUnit (s : State) (o : FunctionalBlock) (k : PubTarget) (a : Nat) (xs : List Byte) : (s.writeAnswer o k a xs).logUnit = s.logUnit :=
  (((writeAnswer_frame (T := [.publications, .shadow]) (s := s) o k a xs (by simp)).mpr (OnlyChanges.refl _ s)) .logUnit (by simp))
@[simp] theorem writeAnswer_runs (s : State) (o : FunctionalBlock) (k : PubTarget) (a : Nat) (xs : List Byte) : (s.writeAnswer o k a xs).runs = s.runs :=
  (((writeAnswer_frame (T := [.publications, .shadow]) (s := s) o k a xs (by simp)).mpr (OnlyChanges.refl _ s)) .runs (by simp))
@[simp] theorem writeAnswer_stats (s : State) (o : FunctionalBlock) (k : PubTarget) (a : Nat) (xs : List Byte) : (s.writeAnswer o k a xs).stats = s.stats :=
  (((writeAnswer_frame (T := [.publications, .shadow]) (s := s) o k a xs (by simp)).mpr (OnlyChanges.refl _ s)) .stats (by simp))
@[simp] theorem writeAnswer_cmdRing (s : State) (o : FunctionalBlock) (k : PubTarget) (a : Nat) (xs : List Byte) : (s.writeAnswer o k a xs).cmdRing = s.cmdRing :=
  (((writeAnswer_frame (T := [.publications, .shadow]) (s := s) o k a xs (by simp)).mpr (OnlyChanges.refl _ s)) .cmdRing (by simp))
@[simp] theorem writeAnswer_ovrRing (s : State) (o : FunctionalBlock) (k : PubTarget) (a : Nat) (xs : List Byte) : (s.writeAnswer o k a xs).ovrRing = s.ovrRing :=
  (((writeAnswer_frame (T := [.publications, .shadow]) (s := s) o k a xs (by simp)).mpr (OnlyChanges.refl _ s)) .ovrRing (by simp))
@[simp] theorem writeAnswer_banks (s : State) (o : FunctionalBlock) (k : PubTarget) (a : Nat) (xs : List Byte) : (s.writeAnswer o k a xs).banks = s.banks :=
  (((writeAnswer_frame (T := [.publications, .shadow]) (s := s) o k a xs (by simp)).mpr (OnlyChanges.refl _ s)) .banks (by simp))
@[simp] theorem writeAnswer_sawMask (s : State) (o : FunctionalBlock) (k : PubTarget) (a : Nat) (xs : List Byte) : (s.writeAnswer o k a xs).sawMask = s.sawMask :=
  (((writeAnswer_frame (T := [.publications, .shadow]) (s := s) o k a xs (by simp)).mpr (OnlyChanges.refl _ s)) .sawMask (by simp))
@[simp] theorem writeAnswer_routes (s : State) (o : FunctionalBlock) (k : PubTarget) (a : Nat) (xs : List Byte) : (s.writeAnswer o k a xs).routes = s.routes :=
  (((writeAnswer_frame (T := [.publications, .shadow]) (s := s) o k a xs (by simp)).mpr (OnlyChanges.refl _ s)) .routes (by simp))
@[simp] theorem writeAnswer_notices (s : State) (o : FunctionalBlock) (k : PubTarget) (a : Nat) (xs : List Byte) : (s.writeAnswer o k a xs).notices = s.notices :=
  (((writeAnswer_frame (T := [.publications, .shadow]) (s := s) o k a xs (by simp)).mpr (OnlyChanges.refl _ s)) .notices (by simp))
@[simp] theorem writeAnswer_arenaBase (s : State) (o : FunctionalBlock) (k : PubTarget) (a : Nat) (xs : List Byte) : (s.writeAnswer o k a xs).path.arenaBase = s.path.arenaBase :=
  (((writeAnswer_frame (T := [.publications, .shadow]) (s := s) o k a xs (by simp)).mpr (OnlyChanges.refl _ s)) .arenaBase (by simp))
@[simp] theorem writeAnswer_initialRest (s : State) (o : FunctionalBlock) (k : PubTarget) (a : Nat) (xs : List Byte) : (s.writeAnswer o k a xs).path.initialRest = s.path.initialRest :=
  (((writeAnswer_frame (T := [.publications, .shadow]) (s := s) o k a xs (by simp)).mpr (OnlyChanges.refl _ s)) .initialRest (by simp))
@[simp] theorem writeAnswer_heldReads (s : State) (o : FunctionalBlock) (k : PubTarget) (a : Nat) (xs : List Byte) : (s.writeAnswer o k a xs).path.heldReads = s.path.heldReads :=
  (((writeAnswer_frame (T := [.publications, .shadow]) (s := s) o k a xs (by simp)).mpr (OnlyChanges.refl _ s)) .heldReads (by simp))
@[simp] theorem writeAnswer_openReads (s : State) (o : FunctionalBlock) (k : PubTarget) (a : Nat) (xs : List Byte) : (s.writeAnswer o k a xs).path.openReads = s.path.openReads :=
  (((writeAnswer_frame (T := [.publications, .shadow]) (s := s) o k a xs (by simp)).mpr (OnlyChanges.refl _ s)) .openReads (by simp))
@[simp] theorem writeAnswer_waitingGuards (s : State) (o : FunctionalBlock) (k : PubTarget) (a : Nat) (xs : List Byte) : (s.writeAnswer o k a xs).path.waitingGuards = s.path.waitingGuards :=
  (((writeAnswer_frame (T := [.publications, .shadow]) (s := s) o k a xs (by simp)).mpr (OnlyChanges.refl _ s)) .waitingGuards (by simp))
@[simp] theorem writeAnswer_event (s : State) (o : FunctionalBlock) (k : PubTarget) (a : Nat) (xs : List Byte) : (s.writeAnswer o k a xs).path.event = s.path.event :=
  (((writeAnswer_frame (T := [.publications, .shadow]) (s := s) o k a xs (by simp)).mpr (OnlyChanges.refl _ s)) .event (by simp))
@[simp] theorem writeAnswer_ports (s : State) (o : FunctionalBlock) (k : PubTarget) (a : Nat) (xs : List Byte) : (s.writeAnswer o k a xs).path.ports = s.path.ports :=
  (((writeAnswer_frame (T := [.publications, .shadow]) (s := s) o k a xs (by simp)).mpr (OnlyChanges.refl _ s)) .ports (by simp))

/-- What raising a notice does to the rings depends on the rings and the routes alone. -/
theorem raise_notices_congr {s t : State} (h : t.notices = s.notices) (hr : t.routes = s.routes) (n : Notice) :
    (t.raise n).notices = (s.raise n).notices := by
  have hs : ∀ (u v : State) (ring : Fin 2) (n : Notice) (lost : Half), u.notices = v.notices →
      (u.storeNotice ring n lost).notices = (v.storeNotice ring n lost).notices := by
    intro u v ring n lost h
    simp [State.storeNotice, State.setNotices, h]
  have hl : ∀ (u v : State) (ring : Fin 2), u.notices = v.notices →
      (u.loseNotice ring).notices = (v.loseNotice ring).notices := by
    intro u v ring h
    simp only [State.loseNotice, h]
    split <;> simp [State.setNotices, h]
  have hq : ∀ ring, (t.routeNotice ring n).notices = (s.routeNotice ring n).notices := by
    intro ring
    have h1 : (if t.notices[ring].lost ≠ 0 ∧ t.notices[ring].held < 32 then
          t.storeNotice ring (.lost ring.val t.notices[ring].lost) 0 else t).notices =
        (if s.notices[ring].lost ≠ 0 ∧ s.notices[ring].held < 32 then
          s.storeNotice ring (.lost ring.val s.notices[ring].lost) 0 else s).notices := by
      rw [h]
      split
      · exact hs _ _ _ _ _ h
      · exact h
    have h2 : ∀ u v : State, u.notices = v.notices →
        (if u.notices[ring].held < 32 then u.storeNotice ring n u.notices[ring].lost else u.loseNotice ring).notices =
          (if v.notices[ring].held < 32 then v.storeNotice ring n v.notices[ring].lost else v.loseNotice ring).notices := by
      intro u v h
      rw [h]
      split
      · exact hs _ _ _ _ _ h
      · exact hl _ _ _ h
    exact h2 _ _ h1
  have hk : s.routes[routeIndex n.code] = t.routes[routeIndex n.code] := by rw [hr]
  unfold State.raise
  rw [hk]
  cases t.routes[routeIndex n.code]
  · exact hq 0
  · exact hq 1
  · exact h

end Sys2Proof.Machine
end

