-- ==== Sys2Proof/Laws/Publish.lean ====
section
/-! SUPPORT. What a publication does to the stamps, and how storing a notice moves the counts of its ring. -/

namespace Sys2Proof.Machine

theorem Record.index_injective {q r : Record} (h : q.index = r.index) : q = r := by
  have hv : q.index.val = r.index.val := congrArg Fin.val h
  cases q <;> cases r <;> simp only [Record.index] at hv <;>
    first
      | rfl
      | (exfalso; have : (0 : Fin 236).val = 0 := rfl; have : (219 : Fin 236).val = 219 := rfl; omega)
      | (congr 1 <;> (apply Fin.ext; omega))

/-- A stamp moves only where the stamps do. -/
theorem OnlyChanges.stamp {T : List Field} {s t : State} (h : OnlyChanges T s t) (hT : Field.stamps ∉ T) (q : Record) :
    t.stamp q = s.stamp q := by
  have hs : t.path.stamps = s.path.stamps := h .stamps hT
  simp [State.stamp, hs]

/-- R155 and R163: the published record's stamp grows by 1, unless the record waits for its initial write. -/
theorem stamp_publish (s : State) (o : FunctionalBlock) (r q : Record) :
    (s.publish o r).stamp q = if q = r ∧ r.initUnit ∉ s.path.initialRest then s.stamp q + 1 else s.stamp q := by
  unfold State.publish
  split
  · rename_i h; simp [h]
  · rename_i h
    by_cases hq : q = r
    · subst hq; simp [State.stamp, State.enqueue, State.setPath, h]
    · have hi : r.index ≠ q.index := fun e => hq (Record.index_injective e.symm)
      have hv : r.index.val ≠ q.index.val := fun e => hi (Fin.ext e)
      simp [State.stamp, State.enqueue, State.setPath, hq, hv]

/-- R179: the ring after a notice is stored in it; the other ring stands. -/
theorem storeNotice_notices (s : State) (ring : Fin 2) (n : Notice) (lost : Half) :
    (s.storeNotice ring n lost).notices =
      s.notices.set ring
        { s.notices[ring] with
          slots := s.notices[ring].slots.set (noticeSlot s.notices[ring].next) (some (n, s.notices[ring].next))
          next := s.notices[ring].next + 1, held := s.notices[ring].held + 1, lost := lost } := by
  simp [State.storeNotice, State.setNotices]

/-- R179: a notice that finds its ring full moves only the lost count. -/
theorem loseNotice_notices (s : State) (ring : Fin 2) :
    (s.loseNotice ring).notices =
      if s.notices[ring].lost = BitVec.allOnes 16 then s.notices
      else s.notices.set ring { s.notices[ring] with lost := s.notices[ring].lost + 1 } := by
  simp only [State.loseNotice]
  split <;> simp_all [State.setNotices]

end Sys2Proof.Machine
end

