-- ==== Sys2Proof/Laws/State.lean ====
section
/-! SUPPORT. One lemma for each field of State after each update of Machine/Ops.lean. -/

namespace Sys2Proof.Machine

@[simp] theorem State.setEntry_pending (s : State) (n : Half) (e : Option LugEntry) : (s.setEntry n e).pending = s.pending := rfl
@[simp] theorem State.setEntry_resetLow (s : State) (n : Half) (e : Option LugEntry) : (s.setEntry n e).resetLow = s.resetLow := rfl
@[simp] theorem State.setEntry_lineState (s : State) (n : Half) (e : Option LugEntry) : (s.setEntry n e).lineState = s.lineState := rfl
@[simp] theorem State.setEntry_lc (s : State) (n : Half) (e : Option LugEntry) : (s.setEntry n e).lc = s.lc := rfl
@[simp] theorem State.setEntry_config (s : State) (n : Half) (e : Option LugEntry) : (s.setEntry n e).config = s.config := rfl
@[simp] theorem State.setEntry_lugLine (s : State) (n : Half) (e : Option LugEntry) : (s.setEntry n e).lugLine = s.lugLine.set (lugIndex n) e := rfl
@[simp] theorem State.setEntry_boards (s : State) (n : Half) (e : Option LugEntry) : (s.setEntry n e).boards = s.boards := rfl
@[simp] theorem State.setEntry_heads (s : State) (n : Half) (e : Option LugEntry) : (s.setEntry n e).heads = s.heads := rfl
@[simp] theorem State.setEntry_solver (s : State) (n : Half) (e : Option LugEntry) : (s.setEntry n e).solver = s.solver := rfl
@[simp] theorem State.setEntry_held (s : State) (n : Half) (e : Option LugEntry) : (s.setEntry n e).held = s.held := rfl
@[simp] theorem State.setEntry_trimRing (s : State) (n : Half) (e : Option LugEntry) : (s.setEntry n e).trimRing = s.trimRing := rfl
@[simp] theorem State.setEntry_sortRing (s : State) (n : Half) (e : Option LugEntry) : (s.setEntry n e).sortRing = s.sortRing := rfl
@[simp] theorem State.setEntry_bins (s : State) (n : Half) (e : Option LugEntry) : (s.setEntry n e).bins = s.bins := rfl
@[simp] theorem State.setEntry_logUnit (s : State) (n : Half) (e : Option LugEntry) : (s.setEntry n e).logUnit = s.logUnit := rfl
@[simp] theorem State.setEntry_runs (s : State) (n : Half) (e : Option LugEntry) : (s.setEntry n e).runs = s.runs := rfl
@[simp] theorem State.setEntry_stats (s : State) (n : Half) (e : Option LugEntry) : (s.setEntry n e).stats = s.stats := rfl
@[simp] theorem State.setEntry_cmdRing (s : State) (n : Half) (e : Option LugEntry) : (s.setEntry n e).cmdRing = s.cmdRing := rfl
@[simp] theorem State.setEntry_ovrRing (s : State) (n : Half) (e : Option LugEntry) : (s.setEntry n e).ovrRing = s.ovrRing := rfl
@[simp] theorem State.setEntry_banks (s : State) (n : Half) (e : Option LugEntry) : (s.setEntry n e).banks = s.banks := rfl
@[simp] theorem State.setEntry_sawMask (s : State) (n : Half) (e : Option LugEntry) : (s.setEntry n e).sawMask = s.sawMask := rfl
@[simp] theorem State.setEntry_routes (s : State) (n : Half) (e : Option LugEntry) : (s.setEntry n e).routes = s.routes := rfl
@[simp] theorem State.setEntry_notices (s : State) (n : Half) (e : Option LugEntry) : (s.setEntry n e).notices = s.notices := rfl
@[simp] theorem State.setEntry_path (s : State) (n : Half) (e : Option LugEntry) : (s.setEntry n e).path = s.path := rfl
@[simp] theorem State.setEntry_shadow (s : State) (n : Half) (e : Option LugEntry) : (s.setEntry n e).shadow = s.shadow := rfl

@[simp] theorem State.setBoard_pending (s : State) (i : Fin 64) (b : Board) : (s.setBoard i b).pending = s.pending := rfl
@[simp] theorem State.setBoard_resetLow (s : State) (i : Fin 64) (b : Board) : (s.setBoard i b).resetLow = s.resetLow := rfl
@[simp] theorem State.setBoard_lineState (s : State) (i : Fin 64) (b : Board) : (s.setBoard i b).lineState = s.lineState := rfl
@[simp] theorem State.setBoard_lc (s : State) (i : Fin 64) (b : Board) : (s.setBoard i b).lc = s.lc := rfl
@[simp] theorem State.setBoard_config (s : State) (i : Fin 64) (b : Board) : (s.setBoard i b).config = s.config := rfl
@[simp] theorem State.setBoard_lugLine (s : State) (i : Fin 64) (b : Board) : (s.setBoard i b).lugLine = s.lugLine := rfl
@[simp] theorem State.setBoard_boards (s : State) (i : Fin 64) (b : Board) : (s.setBoard i b).boards = s.boards.set i b := rfl
@[simp] theorem State.setBoard_heads (s : State) (i : Fin 64) (b : Board) : (s.setBoard i b).heads = s.heads := rfl
@[simp] theorem State.setBoard_solver (s : State) (i : Fin 64) (b : Board) : (s.setBoard i b).solver = s.solver := rfl
@[simp] theorem State.setBoard_held (s : State) (i : Fin 64) (b : Board) : (s.setBoard i b).held = s.held := rfl
@[simp] theorem State.setBoard_trimRing (s : State) (i : Fin 64) (b : Board) : (s.setBoard i b).trimRing = s.trimRing := rfl
@[simp] theorem State.setBoard_sortRing (s : State) (i : Fin 64) (b : Board) : (s.setBoard i b).sortRing = s.sortRing := rfl
@[simp] theorem State.setBoard_bins (s : State) (i : Fin 64) (b : Board) : (s.setBoard i b).bins = s.bins := rfl
@[simp] theorem State.setBoard_logUnit (s : State) (i : Fin 64) (b : Board) : (s.setBoard i b).logUnit = s.logUnit := rfl
@[simp] theorem State.setBoard_runs (s : State) (i : Fin 64) (b : Board) : (s.setBoard i b).runs = s.runs := rfl
@[simp] theorem State.setBoard_stats (s : State) (i : Fin 64) (b : Board) : (s.setBoard i b).stats = s.stats := rfl
@[simp] theorem State.setBoard_cmdRing (s : State) (i : Fin 64) (b : Board) : (s.setBoard i b).cmdRing = s.cmdRing := rfl
@[simp] theorem State.setBoard_ovrRing (s : State) (i : Fin 64) (b : Board) : (s.setBoard i b).ovrRing = s.ovrRing := rfl
@[simp] theorem State.setBoard_banks (s : State) (i : Fin 64) (b : Board) : (s.setBoard i b).banks = s.banks := rfl
@[simp] theorem State.setBoard_sawMask (s : State) (i : Fin 64) (b : Board) : (s.setBoard i b).sawMask = s.sawMask := rfl
@[simp] theorem State.setBoard_routes (s : State) (i : Fin 64) (b : Board) : (s.setBoard i b).routes = s.routes := rfl
@[simp] theorem State.setBoard_notices (s : State) (i : Fin 64) (b : Board) : (s.setBoard i b).notices = s.notices := rfl
@[simp] theorem State.setBoard_path (s : State) (i : Fin 64) (b : Board) : (s.setBoard i b).path = s.path := rfl
@[simp] theorem State.setBoard_shadow (s : State) (i : Fin 64) (b : Board) : (s.setBoard i b).shadow = s.shadow := rfl

@[simp] theorem State.setHead_pending (s : State) (h : Fin 9) (x : Head) : (s.setHead h x).pending = s.pending := rfl
@[simp] theorem State.setHead_resetLow (s : State) (h : Fin 9) (x : Head) : (s.setHead h x).resetLow = s.resetLow := rfl
@[simp] theorem State.setHead_lineState (s : State) (h : Fin 9) (x : Head) : (s.setHead h x).lineState = s.lineState := rfl
@[simp] theorem State.setHead_lc (s : State) (h : Fin 9) (x : Head) : (s.setHead h x).lc = s.lc := rfl
@[simp] theorem State.setHead_config (s : State) (h : Fin 9) (x : Head) : (s.setHead h x).config = s.config := rfl
@[simp] theorem State.setHead_lugLine (s : State) (h : Fin 9) (x : Head) : (s.setHead h x).lugLine = s.lugLine := rfl
@[simp] theorem State.setHead_boards (s : State) (h : Fin 9) (x : Head) : (s.setHead h x).boards = s.boards := rfl
@[simp] theorem State.setHead_heads (s : State) (h : Fin 9) (x : Head) : (s.setHead h x).heads = s.heads.set h x := rfl
@[simp] theorem State.setHead_solver (s : State) (h : Fin 9) (x : Head) : (s.setHead h x).solver = s.solver := rfl
@[simp] theorem State.setHead_held (s : State) (h : Fin 9) (x : Head) : (s.setHead h x).held = s.held := rfl
@[simp] theorem State.setHead_trimRing (s : State) (h : Fin 9) (x : Head) : (s.setHead h x).trimRing = s.trimRing := rfl
@[simp] theorem State.setHead_sortRing (s : State) (h : Fin 9) (x : Head) : (s.setHead h x).sortRing = s.sortRing := rfl
@[simp] theorem State.setHead_bins (s : State) (h : Fin 9) (x : Head) : (s.setHead h x).bins = s.bins := rfl
@[simp] theorem State.setHead_logUnit (s : State) (h : Fin 9) (x : Head) : (s.setHead h x).logUnit = s.logUnit := rfl
@[simp] theorem State.setHead_runs (s : State) (h : Fin 9) (x : Head) : (s.setHead h x).runs = s.runs := rfl
@[simp] theorem State.setHead_stats (s : State) (h : Fin 9) (x : Head) : (s.setHead h x).stats = s.stats := rfl
@[simp] theorem State.setHead_cmdRing (s : State) (h : Fin 9) (x : Head) : (s.setHead h x).cmdRing = s.cmdRing := rfl
@[simp] theorem State.setHead_ovrRing (s : State) (h : Fin 9) (x : Head) : (s.setHead h x).ovrRing = s.ovrRing := rfl
@[simp] theorem State.setHead_banks (s : State) (h : Fin 9) (x : Head) : (s.setHead h x).banks = s.banks := rfl
@[simp] theorem State.setHead_sawMask (s : State) (h : Fin 9) (x : Head) : (s.setHead h x).sawMask = s.sawMask := rfl
@[simp] theorem State.setHead_routes (s : State) (h : Fin 9) (x : Head) : (s.setHead h x).routes = s.routes := rfl
@[simp] theorem State.setHead_notices (s : State) (h : Fin 9) (x : Head) : (s.setHead h x).notices = s.notices := rfl
@[simp] theorem State.setHead_path (s : State) (h : Fin 9) (x : Head) : (s.setHead h x).path = s.path := rfl
@[simp] theorem State.setHead_shadow (s : State) (h : Fin 9) (x : Head) : (s.setHead h x).shadow = s.shadow := rfl

@[simp] theorem State.setRun_pending (s : State) (r : Fin 8) (x : RunSlot) : (s.setRun r x).pending = s.pending := rfl
@[simp] theorem State.setRun_resetLow (s : State) (r : Fin 8) (x : RunSlot) : (s.setRun r x).resetLow = s.resetLow := rfl
@[simp] theorem State.setRun_lineState (s : State) (r : Fin 8) (x : RunSlot) : (s.setRun r x).lineState = s.lineState := rfl
@[simp] theorem State.setRun_lc (s : State) (r : Fin 8) (x : RunSlot) : (s.setRun r x).lc = s.lc := rfl
@[simp] theorem State.setRun_config (s : State) (r : Fin 8) (x : RunSlot) : (s.setRun r x).config = s.config := rfl
@[simp] theorem State.setRun_lugLine (s : State) (r : Fin 8) (x : RunSlot) : (s.setRun r x).lugLine = s.lugLine := rfl
@[simp] theorem State.setRun_boards (s : State) (r : Fin 8) (x : RunSlot) : (s.setRun r x).boards = s.boards := rfl
@[simp] theorem State.setRun_heads (s : State) (r : Fin 8) (x : RunSlot) : (s.setRun r x).heads = s.heads := rfl
@[simp] theorem State.setRun_solver (s : State) (r : Fin 8) (x : RunSlot) : (s.setRun r x).solver = s.solver := rfl
@[simp] theorem State.setRun_held (s : State) (r : Fin 8) (x : RunSlot) : (s.setRun r x).held = s.held := rfl
@[simp] theorem State.setRun_trimRing (s : State) (r : Fin 8) (x : RunSlot) : (s.setRun r x).trimRing = s.trimRing := rfl
@[simp] theorem State.setRun_sortRing (s : State) (r : Fin 8) (x : RunSlot) : (s.setRun r x).sortRing = s.sortRing := rfl
@[simp] theorem State.setRun_bins (s : State) (r : Fin 8) (x : RunSlot) : (s.setRun r x).bins = s.bins := rfl
@[simp] theorem State.setRun_logUnit (s : State) (r : Fin 8) (x : RunSlot) : (s.setRun r x).logUnit = s.logUnit := rfl
@[simp] theorem State.setRun_runs (s : State) (r : Fin 8) (x : RunSlot) : (s.setRun r x).runs = { s.runs with slots := s.runs.slots.set r x } := rfl
@[simp] theorem State.setRun_stats (s : State) (r : Fin 8) (x : RunSlot) : (s.setRun r x).stats = s.stats := rfl
@[simp] theorem State.setRun_cmdRing (s : State) (r : Fin 8) (x : RunSlot) : (s.setRun r x).cmdRing = s.cmdRing := rfl
@[simp] theorem State.setRun_ovrRing (s : State) (r : Fin 8) (x : RunSlot) : (s.setRun r x).ovrRing = s.ovrRing := rfl
@[simp] theorem State.setRun_banks (s : State) (r : Fin 8) (x : RunSlot) : (s.setRun r x).banks = s.banks := rfl
@[simp] theorem State.setRun_sawMask (s : State) (r : Fin 8) (x : RunSlot) : (s.setRun r x).sawMask = s.sawMask := rfl
@[simp] theorem State.setRun_routes (s : State) (r : Fin 8) (x : RunSlot) : (s.setRun r x).routes = s.routes := rfl
@[simp] theorem State.setRun_notices (s : State) (r : Fin 8) (x : RunSlot) : (s.setRun r x).notices = s.notices := rfl
@[simp] theorem State.setRun_path (s : State) (r : Fin 8) (x : RunSlot) : (s.setRun r x).path = s.path := rfl
@[simp] theorem State.setRun_shadow (s : State) (r : Fin 8) (x : RunSlot) : (s.setRun r x).shadow = s.shadow := rfl

@[simp] theorem State.setTrim_pending (s : State) (i : Fin 16) (x : TrimSlot) : (s.setTrim i x).pending = s.pending := rfl
@[simp] theorem State.setTrim_resetLow (s : State) (i : Fin 16) (x : TrimSlot) : (s.setTrim i x).resetLow = s.resetLow := rfl
@[simp] theorem State.setTrim_lineState (s : State) (i : Fin 16) (x : TrimSlot) : (s.setTrim i x).lineState = s.lineState := rfl
@[simp] theorem State.setTrim_lc (s : State) (i : Fin 16) (x : TrimSlot) : (s.setTrim i x).lc = s.lc := rfl
@[simp] theorem State.setTrim_config (s : State) (i : Fin 16) (x : TrimSlot) : (s.setTrim i x).config = s.config := rfl
@[simp] theorem State.setTrim_lugLine (s : State) (i : Fin 16) (x : TrimSlot) : (s.setTrim i x).lugLine = s.lugLine := rfl
@[simp] theorem State.setTrim_boards (s : State) (i : Fin 16) (x : TrimSlot) : (s.setTrim i x).boards = s.boards := rfl
@[simp] theorem State.setTrim_heads (s : State) (i : Fin 16) (x : TrimSlot) : (s.setTrim i x).heads = s.heads := rfl
@[simp] theorem State.setTrim_solver (s : State) (i : Fin 16) (x : TrimSlot) : (s.setTrim i x).solver = s.solver := rfl
@[simp] theorem State.setTrim_held (s : State) (i : Fin 16) (x : TrimSlot) : (s.setTrim i x).held = s.held := rfl
@[simp] theorem State.setTrim_trimRing (s : State) (i : Fin 16) (x : TrimSlot) : (s.setTrim i x).trimRing = s.trimRing.set i x := rfl
@[simp] theorem State.setTrim_sortRing (s : State) (i : Fin 16) (x : TrimSlot) : (s.setTrim i x).sortRing = s.sortRing := rfl
@[simp] theorem State.setTrim_bins (s : State) (i : Fin 16) (x : TrimSlot) : (s.setTrim i x).bins = s.bins := rfl
@[simp] theorem State.setTrim_logUnit (s : State) (i : Fin 16) (x : TrimSlot) : (s.setTrim i x).logUnit = s.logUnit := rfl
@[simp] theorem State.setTrim_runs (s : State) (i : Fin 16) (x : TrimSlot) : (s.setTrim i x).runs = s.runs := rfl
@[simp] theorem State.setTrim_stats (s : State) (i : Fin 16) (x : TrimSlot) : (s.setTrim i x).stats = s.stats := rfl
@[simp] theorem State.setTrim_cmdRing (s : State) (i : Fin 16) (x : TrimSlot) : (s.setTrim i x).cmdRing = s.cmdRing := rfl
@[simp] theorem State.setTrim_ovrRing (s : State) (i : Fin 16) (x : TrimSlot) : (s.setTrim i x).ovrRing = s.ovrRing := rfl
@[simp] theorem State.setTrim_banks (s : State) (i : Fin 16) (x : TrimSlot) : (s.setTrim i x).banks = s.banks := rfl
@[simp] theorem State.setTrim_sawMask (s : State) (i : Fin 16) (x : TrimSlot) : (s.setTrim i x).sawMask = s.sawMask := rfl
@[simp] theorem State.setTrim_routes (s : State) (i : Fin 16) (x : TrimSlot) : (s.setTrim i x).routes = s.routes := rfl
@[simp] theorem State.setTrim_notices (s : State) (i : Fin 16) (x : TrimSlot) : (s.setTrim i x).notices = s.notices := rfl
@[simp] theorem State.setTrim_path (s : State) (i : Fin 16) (x : TrimSlot) : (s.setTrim i x).path = s.path := rfl
@[simp] theorem State.setTrim_shadow (s : State) (i : Fin 16) (x : TrimSlot) : (s.setTrim i x).shadow = s.shadow := rfl

@[simp] theorem State.setSort_pending (s : State) (i : Fin 16) (x : SortSlot) : (s.setSort i x).pending = s.pending := rfl
@[simp] theorem State.setSort_resetLow (s : State) (i : Fin 16) (x : SortSlot) : (s.setSort i x).resetLow = s.resetLow := rfl
@[simp] theorem State.setSort_lineState (s : State) (i : Fin 16) (x : SortSlot) : (s.setSort i x).lineState = s.lineState := rfl
@[simp] theorem State.setSort_lc (s : State) (i : Fin 16) (x : SortSlot) : (s.setSort i x).lc = s.lc := rfl
@[simp] theorem State.setSort_config (s : State) (i : Fin 16) (x : SortSlot) : (s.setSort i x).config = s.config := rfl
@[simp] theorem State.setSort_lugLine (s : State) (i : Fin 16) (x : SortSlot) : (s.setSort i x).lugLine = s.lugLine := rfl
@[simp] theorem State.setSort_boards (s : State) (i : Fin 16) (x : SortSlot) : (s.setSort i x).boards = s.boards := rfl
@[simp] theorem State.setSort_heads (s : State) (i : Fin 16) (x : SortSlot) : (s.setSort i x).heads = s.heads := rfl
@[simp] theorem State.setSort_solver (s : State) (i : Fin 16) (x : SortSlot) : (s.setSort i x).solver = s.solver := rfl
@[simp] theorem State.setSort_held (s : State) (i : Fin 16) (x : SortSlot) : (s.setSort i x).held = s.held := rfl
@[simp] theorem State.setSort_trimRing (s : State) (i : Fin 16) (x : SortSlot) : (s.setSort i x).trimRing = s.trimRing := rfl
@[simp] theorem State.setSort_sortRing (s : State) (i : Fin 16) (x : SortSlot) : (s.setSort i x).sortRing = s.sortRing.set i x := rfl
@[simp] theorem State.setSort_bins (s : State) (i : Fin 16) (x : SortSlot) : (s.setSort i x).bins = s.bins := rfl
@[simp] theorem State.setSort_logUnit (s : State) (i : Fin 16) (x : SortSlot) : (s.setSort i x).logUnit = s.logUnit := rfl
@[simp] theorem State.setSort_runs (s : State) (i : Fin 16) (x : SortSlot) : (s.setSort i x).runs = s.runs := rfl
@[simp] theorem State.setSort_stats (s : State) (i : Fin 16) (x : SortSlot) : (s.setSort i x).stats = s.stats := rfl
@[simp] theorem State.setSort_cmdRing (s : State) (i : Fin 16) (x : SortSlot) : (s.setSort i x).cmdRing = s.cmdRing := rfl
@[simp] theorem State.setSort_ovrRing (s : State) (i : Fin 16) (x : SortSlot) : (s.setSort i x).ovrRing = s.ovrRing := rfl
@[simp] theorem State.setSort_banks (s : State) (i : Fin 16) (x : SortSlot) : (s.setSort i x).banks = s.banks := rfl
@[simp] theorem State.setSort_sawMask (s : State) (i : Fin 16) (x : SortSlot) : (s.setSort i x).sawMask = s.sawMask := rfl
@[simp] theorem State.setSort_routes (s : State) (i : Fin 16) (x : SortSlot) : (s.setSort i x).routes = s.routes := rfl
@[simp] theorem State.setSort_notices (s : State) (i : Fin 16) (x : SortSlot) : (s.setSort i x).notices = s.notices := rfl
@[simp] theorem State.setSort_path (s : State) (i : Fin 16) (x : SortSlot) : (s.setSort i x).path = s.path := rfl
@[simp] theorem State.setSort_shadow (s : State) (i : Fin 16) (x : SortSlot) : (s.setSort i x).shadow = s.shadow := rfl

@[simp] theorem State.setBin_pending (s : State) (n : Fin 41) (x : Bin) : (s.setBin n x).pending = s.pending := rfl
@[simp] theorem State.setBin_resetLow (s : State) (n : Fin 41) (x : Bin) : (s.setBin n x).resetLow = s.resetLow := rfl
@[simp] theorem State.setBin_lineState (s : State) (n : Fin 41) (x : Bin) : (s.setBin n x).lineState = s.lineState := rfl
@[simp] theorem State.setBin_lc (s : State) (n : Fin 41) (x : Bin) : (s.setBin n x).lc = s.lc := rfl
@[simp] theorem State.setBin_config (s : State) (n : Fin 41) (x : Bin) : (s.setBin n x).config = s.config := rfl
@[simp] theorem State.setBin_lugLine (s : State) (n : Fin 41) (x : Bin) : (s.setBin n x).lugLine = s.lugLine := rfl
@[simp] theorem State.setBin_boards (s : State) (n : Fin 41) (x : Bin) : (s.setBin n x).boards = s.boards := rfl
@[simp] theorem State.setBin_heads (s : State) (n : Fin 41) (x : Bin) : (s.setBin n x).heads = s.heads := rfl
@[simp] theorem State.setBin_solver (s : State) (n : Fin 41) (x : Bin) : (s.setBin n x).solver = s.solver := rfl
@[simp] theorem State.setBin_held (s : State) (n : Fin 41) (x : Bin) : (s.setBin n x).held = s.held := rfl
@[simp] theorem State.setBin_trimRing (s : State) (n : Fin 41) (x : Bin) : (s.setBin n x).trimRing = s.trimRing := rfl
@[simp] theorem State.setBin_sortRing (s : State) (n : Fin 41) (x : Bin) : (s.setBin n x).sortRing = s.sortRing := rfl
@[simp] theorem State.setBin_bins (s : State) (n : Fin 41) (x : Bin) : (s.setBin n x).bins = s.bins.set n x := rfl
@[simp] theorem State.setBin_logUnit (s : State) (n : Fin 41) (x : Bin) : (s.setBin n x).logUnit = s.logUnit := rfl
@[simp] theorem State.setBin_runs (s : State) (n : Fin 41) (x : Bin) : (s.setBin n x).runs = s.runs := rfl
@[simp] theorem State.setBin_stats (s : State) (n : Fin 41) (x : Bin) : (s.setBin n x).stats = s.stats := rfl
@[simp] theorem State.setBin_cmdRing (s : State) (n : Fin 41) (x : Bin) : (s.setBin n x).cmdRing = s.cmdRing := rfl
@[simp] theorem State.setBin_ovrRing (s : State) (n : Fin 41) (x : Bin) : (s.setBin n x).ovrRing = s.ovrRing := rfl
@[simp] theorem State.setBin_banks (s : State) (n : Fin 41) (x : Bin) : (s.setBin n x).banks = s.banks := rfl
@[simp] theorem State.setBin_sawMask (s : State) (n : Fin 41) (x : Bin) : (s.setBin n x).sawMask = s.sawMask := rfl
@[simp] theorem State.setBin_routes (s : State) (n : Fin 41) (x : Bin) : (s.setBin n x).routes = s.routes := rfl
@[simp] theorem State.setBin_notices (s : State) (n : Fin 41) (x : Bin) : (s.setBin n x).notices = s.notices := rfl
@[simp] theorem State.setBin_path (s : State) (n : Fin 41) (x : Bin) : (s.setBin n x).path = s.path := rfl
@[simp] theorem State.setBin_shadow (s : State) (n : Fin 41) (x : Bin) : (s.setBin n x).shadow = s.shadow := rfl

@[simp] theorem State.setNotices_pending (s : State) (n : Fin 2) (x : NoticeRing) : (s.setNotices n x).pending = s.pending := rfl
@[simp] theorem State.setNotices_resetLow (s : State) (n : Fin 2) (x : NoticeRing) : (s.setNotices n x).resetLow = s.resetLow := rfl
@[simp] theorem State.setNotices_lineState (s : State) (n : Fin 2) (x : NoticeRing) : (s.setNotices n x).lineState = s.lineState := rfl
@[simp] theorem State.setNotices_lc (s : State) (n : Fin 2) (x : NoticeRing) : (s.setNotices n x).lc = s.lc := rfl
@[simp] theorem State.setNotices_config (s : State) (n : Fin 2) (x : NoticeRing) : (s.setNotices n x).config = s.config := rfl
@[simp] theorem State.setNotices_lugLine (s : State) (n : Fin 2) (x : NoticeRing) : (s.setNotices n x).lugLine = s.lugLine := rfl
@[simp] theorem State.setNotices_boards (s : State) (n : Fin 2) (x : NoticeRing) : (s.setNotices n x).boards = s.boards := rfl
@[simp] theorem State.setNotices_heads (s : State) (n : Fin 2) (x : NoticeRing) : (s.setNotices n x).heads = s.heads := rfl
@[simp] theorem State.setNotices_solver (s : State) (n : Fin 2) (x : NoticeRing) : (s.setNotices n x).solver = s.solver := rfl
@[simp] theorem State.setNotices_held (s : State) (n : Fin 2) (x : NoticeRing) : (s.setNotices n x).held = s.held := rfl
@[simp] theorem State.setNotices_trimRing (s : State) (n : Fin 2) (x : NoticeRing) : (s.setNotices n x).trimRing = s.trimRing := rfl
@[simp] theorem State.setNotices_sortRing (s : State) (n : Fin 2) (x : NoticeRing) : (s.setNotices n x).sortRing = s.sortRing := rfl
@[simp] theorem State.setNotices_bins (s : State) (n : Fin 2) (x : NoticeRing) : (s.setNotices n x).bins = s.bins := rfl
@[simp] theorem State.setNotices_logUnit (s : State) (n : Fin 2) (x : NoticeRing) : (s.setNotices n x).logUnit = s.logUnit := rfl
@[simp] theorem State.setNotices_runs (s : State) (n : Fin 2) (x : NoticeRing) : (s.setNotices n x).runs = s.runs := rfl
@[simp] theorem State.setNotices_stats (s : State) (n : Fin 2) (x : NoticeRing) : (s.setNotices n x).stats = s.stats := rfl
@[simp] theorem State.setNotices_cmdRing (s : State) (n : Fin 2) (x : NoticeRing) : (s.setNotices n x).cmdRing = s.cmdRing := rfl
@[simp] theorem State.setNotices_ovrRing (s : State) (n : Fin 2) (x : NoticeRing) : (s.setNotices n x).ovrRing = s.ovrRing := rfl
@[simp] theorem State.setNotices_banks (s : State) (n : Fin 2) (x : NoticeRing) : (s.setNotices n x).banks = s.banks := rfl
@[simp] theorem State.setNotices_sawMask (s : State) (n : Fin 2) (x : NoticeRing) : (s.setNotices n x).sawMask = s.sawMask := rfl
@[simp] theorem State.setNotices_routes (s : State) (n : Fin 2) (x : NoticeRing) : (s.setNotices n x).routes = s.routes := rfl
@[simp] theorem State.setNotices_notices (s : State) (n : Fin 2) (x : NoticeRing) : (s.setNotices n x).notices = s.notices.set n x := rfl
@[simp] theorem State.setNotices_path (s : State) (n : Fin 2) (x : NoticeRing) : (s.setNotices n x).path = s.path := rfl
@[simp] theorem State.setNotices_shadow (s : State) (n : Fin 2) (x : NoticeRing) : (s.setNotices n x).shadow = s.shadow := rfl

@[simp] theorem State.setSolver_pending (s : State) (x : Solver) : (s.setSolver x).pending = s.pending := rfl
@[simp] theorem State.setSolver_resetLow (s : State) (x : Solver) : (s.setSolver x).resetLow = s.resetLow := rfl
@[simp] theorem State.setSolver_lineState (s : State) (x : Solver) : (s.setSolver x).lineState = s.lineState := rfl
@[simp] theorem State.setSolver_lc (s : State) (x : Solver) : (s.setSolver x).lc = s.lc := rfl
@[simp] theorem State.setSolver_config (s : State) (x : Solver) : (s.setSolver x).config = s.config := rfl
@[simp] theorem State.setSolver_lugLine (s : State) (x : Solver) : (s.setSolver x).lugLine = s.lugLine := rfl
@[simp] theorem State.setSolver_boards (s : State) (x : Solver) : (s.setSolver x).boards = s.boards := rfl
@[simp] theorem State.setSolver_heads (s : State) (x : Solver) : (s.setSolver x).heads = s.heads := rfl
@[simp] theorem State.setSolver_solver (s : State) (x : Solver) : (s.setSolver x).solver = x := rfl
@[simp] theorem State.setSolver_held (s : State) (x : Solver) : (s.setSolver x).held = s.held := rfl
@[simp] theorem State.setSolver_trimRing (s : State) (x : Solver) : (s.setSolver x).trimRing = s.trimRing := rfl
@[simp] theorem State.setSolver_sortRing (s : State) (x : Solver) : (s.setSolver x).sortRing = s.sortRing := rfl
@[simp] theorem State.setSolver_bins (s : State) (x : Solver) : (s.setSolver x).bins = s.bins := rfl
@[simp] theorem State.setSolver_logUnit (s : State) (x : Solver) : (s.setSolver x).logUnit = s.logUnit := rfl
@[simp] theorem State.setSolver_runs (s : State) (x : Solver) : (s.setSolver x).runs = s.runs := rfl
@[simp] theorem State.setSolver_stats (s : State) (x : Solver) : (s.setSolver x).stats = s.stats := rfl
@[simp] theorem State.setSolver_cmdRing (s : State) (x : Solver) : (s.setSolver x).cmdRing = s.cmdRing := rfl
@[simp] theorem State.setSolver_ovrRing (s : State) (x : Solver) : (s.setSolver x).ovrRing = s.ovrRing := rfl
@[simp] theorem State.setSolver_banks (s : State) (x : Solver) : (s.setSolver x).banks = s.banks := rfl
@[simp] theorem State.setSolver_sawMask (s : State) (x : Solver) : (s.setSolver x).sawMask = s.sawMask := rfl
@[simp] theorem State.setSolver_routes (s : State) (x : Solver) : (s.setSolver x).routes = s.routes := rfl
@[simp] theorem State.setSolver_notices (s : State) (x : Solver) : (s.setSolver x).notices = s.notices := rfl
@[simp] theorem State.setSolver_path (s : State) (x : Solver) : (s.setSolver x).path = s.path := rfl
@[simp] theorem State.setSolver_shadow (s : State) (x : Solver) : (s.setSolver x).shadow = s.shadow := rfl

@[simp] theorem State.setPath_pending (s : State) (x : Path) : (s.setPath x).pending = s.pending := rfl
@[simp] theorem State.setPath_resetLow (s : State) (x : Path) : (s.setPath x).resetLow = s.resetLow := rfl
@[simp] theorem State.setPath_lineState (s : State) (x : Path) : (s.setPath x).lineState = s.lineState := rfl
@[simp] theorem State.setPath_lc (s : State) (x : Path) : (s.setPath x).lc = s.lc := rfl
@[simp] theorem State.setPath_config (s : State) (x : Path) : (s.setPath x).config = s.config := rfl
@[simp] theorem State.setPath_lugLine (s : State) (x : Path) : (s.setPath x).lugLine = s.lugLine := rfl
@[simp] theorem State.setPath_boards (s : State) (x : Path) : (s.setPath x).boards = s.boards := rfl
@[simp] theorem State.setPath_heads (s : State) (x : Path) : (s.setPath x).heads = s.heads := rfl
@[simp] theorem State.setPath_solver (s : State) (x : Path) : (s.setPath x).solver = s.solver := rfl
@[simp] theorem State.setPath_held (s : State) (x : Path) : (s.setPath x).held = s.held := rfl
@[simp] theorem State.setPath_trimRing (s : State) (x : Path) : (s.setPath x).trimRing = s.trimRing := rfl
@[simp] theorem State.setPath_sortRing (s : State) (x : Path) : (s.setPath x).sortRing = s.sortRing := rfl
@[simp] theorem State.setPath_bins (s : State) (x : Path) : (s.setPath x).bins = s.bins := rfl
@[simp] theorem State.setPath_logUnit (s : State) (x : Path) : (s.setPath x).logUnit = s.logUnit := rfl
@[simp] theorem State.setPath_runs (s : State) (x : Path) : (s.setPath x).runs = s.runs := rfl
@[simp] theorem State.setPath_stats (s : State) (x : Path) : (s.setPath x).stats = s.stats := rfl
@[simp] theorem State.setPath_cmdRing (s : State) (x : Path) : (s.setPath x).cmdRing = s.cmdRing := rfl
@[simp] theorem State.setPath_ovrRing (s : State) (x : Path) : (s.setPath x).ovrRing = s.ovrRing := rfl
@[simp] theorem State.setPath_banks (s : State) (x : Path) : (s.setPath x).banks = s.banks := rfl
@[simp] theorem State.setPath_sawMask (s : State) (x : Path) : (s.setPath x).sawMask = s.sawMask := rfl
@[simp] theorem State.setPath_routes (s : State) (x : Path) : (s.setPath x).routes = s.routes := rfl
@[simp] theorem State.setPath_notices (s : State) (x : Path) : (s.setPath x).notices = s.notices := rfl
@[simp] theorem State.setPath_path (s : State) (x : Path) : (s.setPath x).path = x := rfl
@[simp] theorem State.setPath_shadow (s : State) (x : Path) : (s.setPath x).shadow = s.shadow := rfl

@[simp] theorem State.setShadow_pending (s : State) (m : List Host.Cell) : (s.setShadow m).pending = s.pending := rfl
@[simp] theorem State.setShadow_resetLow (s : State) (m : List Host.Cell) : (s.setShadow m).resetLow = s.resetLow := rfl
@[simp] theorem State.setShadow_lineState (s : State) (m : List Host.Cell) : (s.setShadow m).lineState = s.lineState := rfl
@[simp] theorem State.setShadow_lc (s : State) (m : List Host.Cell) : (s.setShadow m).lc = s.lc := rfl
@[simp] theorem State.setShadow_config (s : State) (m : List Host.Cell) : (s.setShadow m).config = s.config := rfl
@[simp] theorem State.setShadow_lugLine (s : State) (m : List Host.Cell) : (s.setShadow m).lugLine = s.lugLine := rfl
@[simp] theorem State.setShadow_boards (s : State) (m : List Host.Cell) : (s.setShadow m).boards = s.boards := rfl
@[simp] theorem State.setShadow_heads (s : State) (m : List Host.Cell) : (s.setShadow m).heads = s.heads := rfl
@[simp] theorem State.setShadow_solver (s : State) (m : List Host.Cell) : (s.setShadow m).solver = s.solver := rfl
@[simp] theorem State.setShadow_held (s : State) (m : List Host.Cell) : (s.setShadow m).held = s.held := rfl
@[simp] theorem State.setShadow_trimRing (s : State) (m : List Host.Cell) : (s.setShadow m).trimRing = s.trimRing := rfl
@[simp] theorem State.setShadow_sortRing (s : State) (m : List Host.Cell) : (s.setShadow m).sortRing = s.sortRing := rfl
@[simp] theorem State.setShadow_bins (s : State) (m : List Host.Cell) : (s.setShadow m).bins = s.bins := rfl
@[simp] theorem State.setShadow_logUnit (s : State) (m : List Host.Cell) : (s.setShadow m).logUnit = s.logUnit := rfl
@[simp] theorem State.setShadow_runs (s : State) (m : List Host.Cell) : (s.setShadow m).runs = s.runs := rfl
@[simp] theorem State.setShadow_stats (s : State) (m : List Host.Cell) : (s.setShadow m).stats = s.stats := rfl
@[simp] theorem State.setShadow_cmdRing (s : State) (m : List Host.Cell) : (s.setShadow m).cmdRing = s.cmdRing := rfl
@[simp] theorem State.setShadow_ovrRing (s : State) (m : List Host.Cell) : (s.setShadow m).ovrRing = s.ovrRing := rfl
@[simp] theorem State.setShadow_banks (s : State) (m : List Host.Cell) : (s.setShadow m).banks = s.banks := rfl
@[simp] theorem State.setShadow_sawMask (s : State) (m : List Host.Cell) : (s.setShadow m).sawMask = s.sawMask := rfl
@[simp] theorem State.setShadow_routes (s : State) (m : List Host.Cell) : (s.setShadow m).routes = s.routes := rfl
@[simp] theorem State.setShadow_notices (s : State) (m : List Host.Cell) : (s.setShadow m).notices = s.notices := rfl
@[simp] theorem State.setShadow_path (s : State) (m : List Host.Cell) : (s.setShadow m).path = s.path := rfl
@[simp] theorem State.setShadow_shadow (s : State) (m : List Host.Cell) : (s.setShadow m).shadow = m := rfl

@[simp] theorem State.setBanks_pending (s : State) (x : Banks) : (s.setBanks x).pending = s.pending := rfl
@[simp] theorem State.setBanks_resetLow (s : State) (x : Banks) : (s.setBanks x).resetLow = s.resetLow := rfl
@[simp] theorem State.setBanks_lineState (s : State) (x : Banks) : (s.setBanks x).lineState = s.lineState := rfl
@[simp] theorem State.setBanks_lc (s : State) (x : Banks) : (s.setBanks x).lc = s.lc := rfl
@[simp] theorem State.setBanks_config (s : State) (x : Banks) : (s.setBanks x).config = s.config := rfl
@[simp] theorem State.setBanks_lugLine (s : State) (x : Banks) : (s.setBanks x).lugLine = s.lugLine := rfl
@[simp] theorem State.setBanks_boards (s : State) (x : Banks) : (s.setBanks x).boards = s.boards := rfl
@[simp] theorem State.setBanks_heads (s : State) (x : Banks) : (s.setBanks x).heads = s.heads := rfl
@[simp] theorem State.setBanks_solver (s : State) (x : Banks) : (s.setBanks x).solver = s.solver := rfl
@[simp] theorem State.setBanks_held (s : State) (x : Banks) : (s.setBanks x).held = s.held := rfl
@[simp] theorem State.setBanks_trimRing (s : State) (x : Banks) : (s.setBanks x).trimRing = s.trimRing := rfl
@[simp] theorem State.setBanks_sortRing (s : State) (x : Banks) : (s.setBanks x).sortRing = s.sortRing := rfl
@[simp] theorem State.setBanks_bins (s : State) (x : Banks) : (s.setBanks x).bins = s.bins := rfl
@[simp] theorem State.setBanks_logUnit (s : State) (x : Banks) : (s.setBanks x).logUnit = s.logUnit := rfl
@[simp] theorem State.setBanks_runs (s : State) (x : Banks) : (s.setBanks x).runs = s.runs := rfl
@[simp] theorem State.setBanks_stats (s : State) (x : Banks) : (s.setBanks x).stats = s.stats := rfl
@[simp] theorem State.setBanks_cmdRing (s : State) (x : Banks) : (s.setBanks x).cmdRing = s.cmdRing := rfl
@[simp] theorem State.setBanks_ovrRing (s : State) (x : Banks) : (s.setBanks x).ovrRing = s.ovrRing := rfl
@[simp] theorem State.setBanks_banks (s : State) (x : Banks) : (s.setBanks x).banks = x := rfl
@[simp] theorem State.setBanks_sawMask (s : State) (x : Banks) : (s.setBanks x).sawMask = s.sawMask := rfl
@[simp] theorem State.setBanks_routes (s : State) (x : Banks) : (s.setBanks x).routes = s.routes := rfl
@[simp] theorem State.setBanks_notices (s : State) (x : Banks) : (s.setBanks x).notices = s.notices := rfl
@[simp] theorem State.setBanks_path (s : State) (x : Banks) : (s.setBanks x).path = s.path := rfl
@[simp] theorem State.setBanks_shadow (s : State) (x : Banks) : (s.setBanks x).shadow = s.shadow := rfl

@[simp] theorem State.setLogUnit_pending (s : State) (x : LogUnit) : (s.setLogUnit x).pending = s.pending := rfl
@[simp] theorem State.setLogUnit_resetLow (s : State) (x : LogUnit) : (s.setLogUnit x).resetLow = s.resetLow := rfl
@[simp] theorem State.setLogUnit_lineState (s : State) (x : LogUnit) : (s.setLogUnit x).lineState = s.lineState := rfl
@[simp] theorem State.setLogUnit_lc (s : State) (x : LogUnit) : (s.setLogUnit x).lc = s.lc := rfl
@[simp] theorem State.setLogUnit_config (s : State) (x : LogUnit) : (s.setLogUnit x).config = s.config := rfl
@[simp] theorem State.setLogUnit_lugLine (s : State) (x : LogUnit) : (s.setLogUnit x).lugLine = s.lugLine := rfl
@[simp] theorem State.setLogUnit_boards (s : State) (x : LogUnit) : (s.setLogUnit x).boards = s.boards := rfl
@[simp] theorem State.setLogUnit_heads (s : State) (x : LogUnit) : (s.setLogUnit x).heads = s.heads := rfl
@[simp] theorem State.setLogUnit_solver (s : State) (x : LogUnit) : (s.setLogUnit x).solver = s.solver := rfl
@[simp] theorem State.setLogUnit_held (s : State) (x : LogUnit) : (s.setLogUnit x).held = s.held := rfl
@[simp] theorem State.setLogUnit_trimRing (s : State) (x : LogUnit) : (s.setLogUnit x).trimRing = s.trimRing := rfl
@[simp] theorem State.setLogUnit_sortRing (s : State) (x : LogUnit) : (s.setLogUnit x).sortRing = s.sortRing := rfl
@[simp] theorem State.setLogUnit_bins (s : State) (x : LogUnit) : (s.setLogUnit x).bins = s.bins := rfl
@[simp] theorem State.setLogUnit_logUnit (s : State) (x : LogUnit) : (s.setLogUnit x).logUnit = x := rfl
@[simp] theorem State.setLogUnit_runs (s : State) (x : LogUnit) : (s.setLogUnit x).runs = s.runs := rfl
@[simp] theorem State.setLogUnit_stats (s : State) (x : LogUnit) : (s.setLogUnit x).stats = s.stats := rfl
@[simp] theorem State.setLogUnit_cmdRing (s : State) (x : LogUnit) : (s.setLogUnit x).cmdRing = s.cmdRing := rfl
@[simp] theorem State.setLogUnit_ovrRing (s : State) (x : LogUnit) : (s.setLogUnit x).ovrRing = s.ovrRing := rfl
@[simp] theorem State.setLogUnit_banks (s : State) (x : LogUnit) : (s.setLogUnit x).banks = s.banks := rfl
@[simp] theorem State.setLogUnit_sawMask (s : State) (x : LogUnit) : (s.setLogUnit x).sawMask = s.sawMask := rfl
@[simp] theorem State.setLogUnit_routes (s : State) (x : LogUnit) : (s.setLogUnit x).routes = s.routes := rfl
@[simp] theorem State.setLogUnit_notices (s : State) (x : LogUnit) : (s.setLogUnit x).notices = s.notices := rfl
@[simp] theorem State.setLogUnit_path (s : State) (x : LogUnit) : (s.setLogUnit x).path = s.path := rfl
@[simp] theorem State.setLogUnit_shadow (s : State) (x : LogUnit) : (s.setLogUnit x).shadow = s.shadow := rfl

@[simp] theorem State.setLineState_pending (s : State) (x : LineState) : (s.setLineState x).pending = s.pending := rfl
@[simp] theorem State.setLineState_resetLow (s : State) (x : LineState) : (s.setLineState x).resetLow = s.resetLow := rfl
@[simp] theorem State.setLineState_lineState (s : State) (x : LineState) : (s.setLineState x).lineState = x := rfl
@[simp] theorem State.setLineState_lc (s : State) (x : LineState) : (s.setLineState x).lc = s.lc := rfl
@[simp] theorem State.setLineState_config (s : State) (x : LineState) : (s.setLineState x).config = s.config := rfl
@[simp] theorem State.setLineState_lugLine (s : State) (x : LineState) : (s.setLineState x).lugLine = s.lugLine := rfl
@[simp] theorem State.setLineState_boards (s : State) (x : LineState) : (s.setLineState x).boards = s.boards := rfl
@[simp] theorem State.setLineState_heads (s : State) (x : LineState) : (s.setLineState x).heads = s.heads := rfl
@[simp] theorem State.setLineState_solver (s : State) (x : LineState) : (s.setLineState x).solver = s.solver := rfl
@[simp] theorem State.setLineState_held (s : State) (x : LineState) : (s.setLineState x).held = s.held := rfl
@[simp] theorem State.setLineState_trimRing (s : State) (x : LineState) : (s.setLineState x).trimRing = s.trimRing := rfl
@[simp] theorem State.setLineState_sortRing (s : State) (x : LineState) : (s.setLineState x).sortRing = s.sortRing := rfl
@[simp] theorem State.setLineState_bins (s : State) (x : LineState) : (s.setLineState x).bins = s.bins := rfl
@[simp] theorem State.setLineState_logUnit (s : State) (x : LineState) : (s.setLineState x).logUnit = s.logUnit := rfl
@[simp] theorem State.setLineState_runs (s : State) (x : LineState) : (s.setLineState x).runs = s.runs := rfl
@[simp] theorem State.setLineState_stats (s : State) (x : LineState) : (s.setLineState x).stats = s.stats := rfl
@[simp] theorem State.setLineState_cmdRing (s : State) (x : LineState) : (s.setLineState x).cmdRing = s.cmdRing := rfl
@[simp] theorem State.setLineState_ovrRing (s : State) (x : LineState) : (s.setLineState x).ovrRing = s.ovrRing := rfl
@[simp] theorem State.setLineState_banks (s : State) (x : LineState) : (s.setLineState x).banks = s.banks := rfl
@[simp] theorem State.setLineState_sawMask (s : State) (x : LineState) : (s.setLineState x).sawMask = s.sawMask := rfl
@[simp] theorem State.setLineState_routes (s : State) (x : LineState) : (s.setLineState x).routes = s.routes := rfl
@[simp] theorem State.setLineState_notices (s : State) (x : LineState) : (s.setLineState x).notices = s.notices := rfl
@[simp] theorem State.setLineState_path (s : State) (x : LineState) : (s.setLineState x).path = s.path := rfl
@[simp] theorem State.setLineState_shadow (s : State) (x : LineState) : (s.setLineState x).shadow = s.shadow := rfl

@[simp] theorem State.emit_pending (s : State) (e : PortEvent) : (s.emit e).pending = s.pending := rfl
@[simp] theorem State.emit_resetLow (s : State) (e : PortEvent) : (s.emit e).resetLow = s.resetLow := rfl
@[simp] theorem State.emit_lineState (s : State) (e : PortEvent) : (s.emit e).lineState = s.lineState := rfl
@[simp] theorem State.emit_lc (s : State) (e : PortEvent) : (s.emit e).lc = s.lc := rfl
@[simp] theorem State.emit_config (s : State) (e : PortEvent) : (s.emit e).config = s.config := rfl
@[simp] theorem State.emit_lugLine (s : State) (e : PortEvent) : (s.emit e).lugLine = s.lugLine := rfl
@[simp] theorem State.emit_boards (s : State) (e : PortEvent) : (s.emit e).boards = s.boards := rfl
@[simp] theorem State.emit_heads (s : State) (e : PortEvent) : (s.emit e).heads = s.heads := rfl
@[simp] theorem State.emit_solver (s : State) (e : PortEvent) : (s.emit e).solver = s.solver := rfl
@[simp] theorem State.emit_held (s : State) (e : PortEvent) : (s.emit e).held = s.held := rfl
@[simp] theorem State.emit_trimRing (s : State) (e : PortEvent) : (s.emit e).trimRing = s.trimRing := rfl
@[simp] theorem State.emit_sortRing (s : State) (e : PortEvent) : (s.emit e).sortRing = s.sortRing := rfl
@[simp] theorem State.emit_bins (s : State) (e : PortEvent) : (s.emit e).bins = s.bins := rfl
@[simp] theorem State.emit_logUnit (s : State) (e : PortEvent) : (s.emit e).logUnit = s.logUnit := rfl
@[simp] theorem State.emit_runs (s : State) (e : PortEvent) : (s.emit e).runs = s.runs := rfl
@[simp] theorem State.emit_stats (s : State) (e : PortEvent) : (s.emit e).stats = s.stats := rfl
@[simp] theorem State.emit_cmdRing (s : State) (e : PortEvent) : (s.emit e).cmdRing = s.cmdRing := rfl
@[simp] theorem State.emit_ovrRing (s : State) (e : PortEvent) : (s.emit e).ovrRing = s.ovrRing := rfl
@[simp] theorem State.emit_banks (s : State) (e : PortEvent) : (s.emit e).banks = s.banks := rfl
@[simp] theorem State.emit_sawMask (s : State) (e : PortEvent) : (s.emit e).sawMask = s.sawMask := rfl
@[simp] theorem State.emit_routes (s : State) (e : PortEvent) : (s.emit e).routes = s.routes := rfl
@[simp] theorem State.emit_notices (s : State) (e : PortEvent) : (s.emit e).notices = s.notices := rfl
@[simp] theorem State.emit_path (s : State) (e : PortEvent) : (s.emit e).path = { s.path with ports := s.path.ports ++ [e] } := rfl
@[simp] theorem State.emit_shadow (s : State) (e : PortEvent) : (s.emit e).shadow = s.shadow := rfl

@[simp] theorem State.beginEvent_pending (s : State) : (s.beginEvent).pending = s.pending := rfl
@[simp] theorem State.beginEvent_resetLow (s : State) : (s.beginEvent).resetLow = s.resetLow := rfl
@[simp] theorem State.beginEvent_lineState (s : State) : (s.beginEvent).lineState = s.lineState := rfl
@[simp] theorem State.beginEvent_lc (s : State) : (s.beginEvent).lc = s.lc := rfl
@[simp] theorem State.beginEvent_config (s : State) : (s.beginEvent).config = s.config := rfl
@[simp] theorem State.beginEvent_lugLine (s : State) : (s.beginEvent).lugLine = s.lugLine := rfl
@[simp] theorem State.beginEvent_boards (s : State) : (s.beginEvent).boards = s.boards := rfl
@[simp] theorem State.beginEvent_heads (s : State) : (s.beginEvent).heads = s.heads := rfl
@[simp] theorem State.beginEvent_solver (s : State) : (s.beginEvent).solver = s.solver := rfl
@[simp] theorem State.beginEvent_held (s : State) : (s.beginEvent).held = s.held := rfl
@[simp] theorem State.beginEvent_trimRing (s : State) : (s.beginEvent).trimRing = s.trimRing := rfl
@[simp] theorem State.beginEvent_sortRing (s : State) : (s.beginEvent).sortRing = s.sortRing := rfl
@[simp] theorem State.beginEvent_bins (s : State) : (s.beginEvent).bins = s.bins := rfl
@[simp] theorem State.beginEvent_logUnit (s : State) : (s.beginEvent).logUnit = s.logUnit := rfl
@[simp] theorem State.beginEvent_runs (s : State) : (s.beginEvent).runs = s.runs := rfl
@[simp] theorem State.beginEvent_stats (s : State) : (s.beginEvent).stats = s.stats := rfl
@[simp] theorem State.beginEvent_cmdRing (s : State) : (s.beginEvent).cmdRing = s.cmdRing := rfl
@[simp] theorem State.beginEvent_ovrRing (s : State) : (s.beginEvent).ovrRing = s.ovrRing := rfl
@[simp] theorem State.beginEvent_banks (s : State) : (s.beginEvent).banks = s.banks := rfl
@[simp] theorem State.beginEvent_sawMask (s : State) : (s.beginEvent).sawMask = s.sawMask := rfl
@[simp] theorem State.beginEvent_routes (s : State) : (s.beginEvent).routes = s.routes := rfl
@[simp] theorem State.beginEvent_notices (s : State) : (s.beginEvent).notices = s.notices := rfl
@[simp] theorem State.beginEvent_path (s : State) : (s.beginEvent).path = { s.path with event := s.path.event + 1, ports := [] } := rfl
@[simp] theorem State.beginEvent_shadow (s : State) : (s.beginEvent).shadow = s.shadow := rfl

@[simp] theorem State.bump_pending (s : State) (k : Stat) : (s.bump k).pending = s.pending := rfl
@[simp] theorem State.bump_resetLow (s : State) (k : Stat) : (s.bump k).resetLow = s.resetLow := rfl
@[simp] theorem State.bump_lineState (s : State) (k : Stat) : (s.bump k).lineState = s.lineState := rfl
@[simp] theorem State.bump_lc (s : State) (k : Stat) : (s.bump k).lc = s.lc := rfl
@[simp] theorem State.bump_config (s : State) (k : Stat) : (s.bump k).config = s.config := rfl
@[simp] theorem State.bump_lugLine (s : State) (k : Stat) : (s.bump k).lugLine = s.lugLine := rfl
@[simp] theorem State.bump_boards (s : State) (k : Stat) : (s.bump k).boards = s.boards := rfl
@[simp] theorem State.bump_heads (s : State) (k : Stat) : (s.bump k).heads = s.heads := rfl
@[simp] theorem State.bump_solver (s : State) (k : Stat) : (s.bump k).solver = s.solver := rfl
@[simp] theorem State.bump_held (s : State) (k : Stat) : (s.bump k).held = s.held := rfl
@[simp] theorem State.bump_trimRing (s : State) (k : Stat) : (s.bump k).trimRing = s.trimRing := rfl
@[simp] theorem State.bump_sortRing (s : State) (k : Stat) : (s.bump k).sortRing = s.sortRing := rfl
@[simp] theorem State.bump_bins (s : State) (k : Stat) : (s.bump k).bins = s.bins := rfl
@[simp] theorem State.bump_logUnit (s : State) (k : Stat) : (s.bump k).logUnit = s.logUnit := rfl
@[simp] theorem State.bump_runs (s : State) (k : Stat) : (s.bump k).runs = s.runs := rfl
@[simp] theorem State.bump_stats (s : State) (k : Stat) : (s.bump k).stats = s.stats.set k.index (satAdd s.stats[k.index] 1) := rfl
@[simp] theorem State.bump_cmdRing (s : State) (k : Stat) : (s.bump k).cmdRing = s.cmdRing := rfl
@[simp] theorem State.bump_ovrRing (s : State) (k : Stat) : (s.bump k).ovrRing = s.ovrRing := rfl
@[simp] theorem State.bump_banks (s : State) (k : Stat) : (s.bump k).banks = s.banks := rfl
@[simp] theorem State.bump_sawMask (s : State) (k : Stat) : (s.bump k).sawMask = s.sawMask := rfl
@[simp] theorem State.bump_routes (s : State) (k : Stat) : (s.bump k).routes = s.routes := rfl
@[simp] theorem State.bump_notices (s : State) (k : Stat) : (s.bump k).notices = s.notices := rfl
@[simp] theorem State.bump_path (s : State) (k : Stat) : (s.bump k).path = s.path := rfl
@[simp] theorem State.bump_shadow (s : State) (k : Stat) : (s.bump k).shadow = s.shadow := rfl

end Sys2Proof.Machine
end

