-- ==== Sys2Proof/Laws/Requests.lean ====
section
/-! SUPPORT. Notices raised in turn, the stamps that raising a notice leaves, and what the raising of a solve request and
the service of the waiting list do to the boards, the solver and the counters. -/

namespace Sys2Proof.Machine

/-- What raising notices in turn does to the rings depends on the rings and the routes alone. -/
theorem forEach_raise_notices_congr {s t : State} (h : t.notices = s.notices) (hr : t.routes = s.routes)
    (ns : List Notice) : (t.forEach ns State.raise).notices = (s.forEach ns State.raise).notices := by
  induction ns generalizing s t with
  | nil => exact h
  | cons n ns ih =>
    exact ih (s := s.raise n) (t := t.raise n) (raise_notices_congr h hr n) (by rw [raise_routes, raise_routes, hr])

/-- Raising notices in turn changes the rings and what reports them. -/
theorem forEach_raise_only (s : State) (ns : List Notice) :
    OnlyChanges [.notices, .stamps, .publications] s (s.forEach ns State.raise) :=
  (onlyChanges_forEach fun u n => (raise_frame n (by simp)).mpr (OnlyChanges.refl _ u)).mpr (OnlyChanges.refl _ s)

/-- Raising a notice moves the stamps of notice slots and of the status block alone. -/
theorem raise_stamp (s : State) (n : Notice) (r : Record) (h : r ≠ .status) (hn : ∀ ring slot, r ≠ .notice ring slot) :
    (s.raise n).stamp r = s.stamp r := by
  have hs : ∀ (u : State) (ring : Fin 2) (x : Notice) (lost : Half), (u.storeNotice ring x lost).stamp r = u.stamp r := by
    intro u ring x lost
    unfold State.storeNotice
    rw [stamp_publish, if_neg fun k => h k.1, stamp_publish, if_neg fun k => hn _ _ k.1]
    rfl
  have hl : ∀ (u : State) (ring : Fin 2), (u.loseNotice ring).stamp r = u.stamp r := by
    intro u ring
    unfold State.loseNotice
    dsimp only
    split
    · rfl
    · rw [stamp_publish, if_neg fun k => h k.1]
      rfl
  have hq : ∀ ring, (s.routeNotice ring n).stamp r = s.stamp r := by
    intro ring
    unfold State.routeNotice
    dsimp only
    split <;> split <;> simp [hs, hl]
  unfold State.raise
  split <;> first | rfl | exact hq _

theorem forEach_raise_stamp (s : State) (ns : List Notice) (r : Record) (h : r ≠ .status)
    (hn : ∀ ring slot, r ≠ .notice ring slot) : (s.forEach ns State.raise).stamp r = s.stamp r := by
  induction ns generalizing s with
  | nil => rfl
  | cons n ns ih => exact (ih (s.raise n)).trans (raise_stamp s n r h hn)

/-- R83: a board is inserted after every board at least as old and before a younger one. -/
theorem insertByAge_split (s : State) (i : Fin 64) (js : List (Fin 64)) :
    ∃ older younger, js = older ++ younger ∧ s.insertByAge i js = older ++ i :: younger ∧
      (∀ j ∈ older, s.distance s.boards[i].lug ≤ s.distance s.boards[j].lug) ∧
      ∀ j ∈ younger.head?, s.distance s.boards[j].lug < s.distance s.boards[i].lug := by
  induction js with
  | nil => exact ⟨[], [], rfl, rfl, by simp, by simp⟩
  | cons j js ih =>
    unfold State.insertByAge
    split
    · rename_i h
      exact ⟨[], j :: js, rfl, rfl, by simp, by simpa using h⟩
    · rename_i h
      obtain ⟨a, b, h1, h2, h3, h4⟩ := ih
      refine ⟨j :: a, b, by rw [h1]; rfl, by rw [h2]; rfl, ?_, h4⟩
      intro x hx
      rcases List.mem_cons.mp hx with rfl | hx
      · omega
      · exact h3 x hx

/-- R81 and R82: a FIRST request takes a shared credit, else the reserved FIRST credit, else none and waits. -/
theorem raiseRequest_first (s : State) (i : Fin 64) :
    (s.solver.shared.length < 6 →
      s.raiseRequest .first i =
        (s.setSolver { s.solver with shared := s.solver.shared ++ [i] }).setBoard i
          { s.boards[i] with request := some .first, state := .queued }) ∧
    (6 ≤ s.solver.shared.length → s.solver.reservedFirst = none →
      s.raiseRequest .first i =
        ((s.setSolver { s.solver with reservedFirst := some i }).setBoard i
          { s.boards[i] with request := some .first, state := .queued }).bump .reservedUses) ∧
    (6 ≤ s.solver.shared.length → s.solver.reservedFirst ≠ none →
      s.raiseRequest .first i =
        ((s.setSolver { s.solver with waiting := s.insertByAge i s.solver.waiting }).setBoard i
          { s.boards[i] with request := some .first, state := .awaiting }).bump .creditWaits) := by
  refine ⟨?_, ?_, ?_⟩
  · intro h
    simp [State.raiseRequest, Solver.take, h, State.countCredit]
  · intro h h1
    simp [State.raiseRequest, Solver.take, Nat.not_lt.mpr h, h1, State.countCredit]
  · intro h h1
    simp [State.raiseRequest, Solver.take, Nat.not_lt.mpr h, h1]

/-- The raising of a request changes its own board alone, and of that the request and the state. -/
theorem raiseRequest_boards (s : State) (c : RequestClass) (i : Fin 64) :
    ∃ x : BoardState, (s.raiseRequest c i).boards = s.boards.set i { s.boards[i] with request := some c, state := x } := by
  unfold State.raiseRequest
  split
  · rename_i k x h
    exact ⟨.queued, by cases k <;> rfl⟩
  · exact ⟨.awaiting, rfl⟩

/-- R82: a request that takes a credit leaves the solve in flight, the waiting list and the shared holders. -/
theorem take_keeps {x y : Solver} {c : RequestClass} {i : Fin 64} {k : Credit} (h : x.take c i = some (k, y)) :
    y.inFlight = x.inFlight ∧ y.waiting = x.waiting ∧ ∀ j ∈ x.shared, j ∈ y.shared := by
  unfold Solver.take at h
  split at h
  · cases h; exact ⟨rfl, rfl, fun j hj => by simp [hj]⟩
  · split at h <;> split at h <;> cases h <;> exact ⟨rfl, rfl, fun _ hj => hj⟩

/-- R84: what the offer of a credit to one waiter leaves: the solve in flight, every counter but that of reserved
credit uses, every board but for its state; a board QUEUED, or holding a shared credit, stays so. -/
theorem serveOne_keeps (s : State) (i : Fin 64) :
    (s.serveOne i).solver.inFlight = s.solver.inFlight ∧
    (∀ k : Fin 24, k ≠ 14 → (s.serveOne i).stats[k] = s.stats[k]) ∧
    (∀ j : Fin 64, ∃ x, (s.serveOne i).boards[j] = { s.boards[j] with state := x } ∧
      (s.boards[j].state = .queued → x = .queued)) ∧
    ∀ j ∈ s.solver.shared, j ∈ (s.serveOne i).solver.shared := by
  unfold State.serveOne
  split
  · rename_i k x h
    obtain ⟨h1, h2, h3⟩ := take_keeps h
    have hc : ∀ u : State, (u.countCredit k).solver = u.solver ∧ (u.countCredit k).boards = u.boards ∧
        ∀ n : Fin 24, n ≠ 14 → (u.countCredit k).stats[n] = u.stats[n] := by
      intro u
      refine ⟨by cases k <;> rfl, by cases k <;> rfl, ?_⟩
      intro n hn
      have hv : (14 : Nat) ≠ n.val := fun z => hn (Fin.ext z.symm)
      cases k <;> simp [State.countCredit, State.bump, Stat.index, hv]
    simp only [publish_solver, publish_stats, publish_boards, (hc _).1, (hc _).2.1]
    refine ⟨h1, ?_, ?_, h3⟩
    · intro n hn; exact (hc _).2.2 n hn
    · intro j
      by_cases hj : i = j
      · subst hj; exact ⟨.queued, by simp, fun _ => rfl⟩
      · have hv : i.val ≠ j.val := fun z => hj (Fin.ext z)
        exact ⟨s.boards[j].state, by simp [hv], id⟩
  · exact ⟨rfl, fun _ _ => rfl, fun j => ⟨_, rfl, id⟩, fun _ hj => hj⟩

/-- R84: the same of the service of a list of waiters. -/
theorem forEach_serveOne_keeps (js : List (Fin 64)) (s : State) :
    let t := s.forEach js State.serveOne
    t.solver.inFlight = s.solver.inFlight ∧ (∀ k : Fin 24, k ≠ 14 → t.stats[k] = s.stats[k]) ∧
    (∀ j : Fin 64, ∃ x, t.boards[j] = { s.boards[j] with state := x } ∧ (s.boards[j].state = .queued → x = .queued)) ∧
    ∀ j ∈ s.solver.shared, j ∈ t.solver.shared := by
  induction js generalizing s with
  | nil => exact ⟨rfl, fun _ _ => rfl, fun j => ⟨_, rfl, id⟩, fun _ hj => hj⟩
  | cons i js ih =>
    obtain ⟨a1, a2, a3, a4⟩ := serveOne_keeps s i
    obtain ⟨b1, b2, b3, b4⟩ := ih (s.serveOne i)
    refine ⟨b1.trans a1, fun k hk => (b2 k hk).trans (a2 k hk), ?_, fun j hj => b4 j (a4 j hj)⟩
    intro j
    obtain ⟨x, hx, hq⟩ := a3 j
    obtain ⟨y, hy, hr⟩ := b3 j
    exact ⟨y, hy.trans (by rw [hx]), fun h => hr (by rw [hx]; exact hq h)⟩

/-- R84: the oldest waiter takes a shared credit that is free. -/
theorem serveWaiting_oldest (s : State) (j : Fin 64) (js : List (Fin 64)) (h : s.solver.waiting = j :: js)
    (hf : s.solver.shared.length < 6) :
    s.serveWaiting.boards[j].state = .queued ∧ j ∈ s.serveWaiting.solver.shared := by
  have e : s.serveWaiting = (s.serveOne j).forEach js State.serveOne := by
    unfold State.serveWaiting; rw [h]; rfl
  have ht : ∀ c, s.solver.take c j = some (.shared, { s.solver with shared := s.solver.shared ++ [j] }) := fun c => if_pos hf
  have h1 : (s.serveOne j).boards[j].state = .queued ∧ j ∈ (s.serveOne j).solver.shared := by
    unfold State.serveOne
    rw [ht]
    simp [State.countCredit, Solver.unwait]
  obtain ⟨-, -, b3, b4⟩ := forEach_serveOne_keeps js (s.serveOne j)
  rw [e]
  obtain ⟨x, hx, hq⟩ := b3 j
  exact ⟨by rw [hx]; exact hq h1.1, b4 j h1.2⟩

/-- R90: a board with no request at its commit is left as it is. -/
theorem cancelAtCommit_none (s : State) (i : Fin 64)
    (h : s.boards[i].state ≠ .awaiting ∧ s.boards[i].state ≠ .queued ∧ s.boards[i].state ≠ .solving) :
    s.cancelAtCommit i = s := by
  unfold State.cancelAtCommit
  cases hs : s.boards[i].state <;> simp_all

/-- R90: a cancellation at commit is the end of the request, counted, and then, but for a board AWAITING, the service of
the waiting list. -/
theorem cancelAtCommit_request (s : State) (i : Fin 64)
    (h : s.boards[i].state = .awaiting ∨ s.boards[i].state = .queued ∨ s.boards[i].state = .solving) :
    let t := (s.dropRequest i).bump .cancelledAtCommit
    s.cancelAtCommit i = if s.boards[i].state = .awaiting then t else t.serveWaiting := by
  unfold State.cancelAtCommit
  rcases h with h | h | h <;> rw [h] <;> rfl

end Sys2Proof.Machine
end

