-- ==== Sys2Proof/Laws/Consume.lean ====
section
/-! SUPPORT. Reads that consume nothing: they are never out of turn, and hand over no header. The guarded writes that take
effect after the answer to a read, and counting in more goes than one. -/

namespace Sys2Proof.Machine

/-- R154: only a consuming read waits for its turn. -/
theorem inTurn_of_not_consumes {s : State} {r : BusRead} (h : s.consumes r = false) : s.inTurn r = true := by
  simp [State.inTurn, h]

/-- R158: a read through the alias that is no consuming read covers no header word. -/
theorem coveredHeaders_of_not_consumes {s : State} {r : BusRead} {o : Nat} (h : s.offsetOf r.addr = some (o, true))
    (hc : s.consumes r = false) (data : List Byte) : coveredHeaders o r.enables data = [] := by
  unfold coveredHeaders
  rw [List.filterMap_eq_nil_iff]
  intro k hk
  unfold State.consumes at hc
  rw [h] at hc
  simp only [List.any_eq_false] at hc
  have hn := hc k hk
  split
  · rename_i hw
    simp [hw] at hn
    simp [hn]
  · rfl

/-- R158: the answer to a read that is no consuming read hands over nothing. -/
theorem handCovered_of_not_consumes {s : State} {r : BusRead} (hc : s.consumes r = false) (good : Bool)
    (data : List Byte) : s.handCovered r good data = s := by
  unfold State.handCovered
  split
  · rename_i o h
    rw [coveredHeaders_of_not_consumes h hc]
    split <;> rfl
  · rfl

/-- Counting in two goes counts the sum, also where the counter stops at its largest value (R144). -/
theorem satAdd_satAdd {w : Nat} (x : BitVec w) (m n : Nat) : satAdd (satAdd x m) n = satAdd x (m + n) := by
  have hx := x.isLt
  unfold satAdd
  by_cases h : x.toNat + m < 2 ^ w
  · simp only [if_pos h, BitVec.toNat_ofNat, Nat.mod_eq_of_lt h, Nat.add_assoc]
  · simp only [if_neg h, BitVec.toNat_allOnes]
    rw [if_neg (by omega : ¬x.toNat + (m + n) < 2 ^ w)]
    by_cases h0 : n = 0
    · subst h0
      rw [if_pos (by have := Nat.two_pow_pos w; omega)]
      apply BitVec.eq_of_toNat_eq
      simp
    · rw [if_neg (by omega)]

/-- Counting nothing leaves a counter as it is. -/
theorem satAdd_zero {w : Nat} (x : BitVec w) : satAdd x 0 = x := by
  unfold satAdd
  rw [Nat.add_zero, if_pos x.isLt]
  simp

/-- What a guarded write that takes effect can change (R152). -/
theorem takeGuard_only (s : State) (n : Notice) :
    OnlyChanges [.ports, .stats, .notices, .stamps, .publications] s (s.takeGuard n) := by
  simp

/-- R152: guarded writes that take effect one after the other are answered good, counted and reported. -/
theorem forEach_takeGuard (s : State) (gs : List WaitingGuard) :
    let t := s.forEach gs fun u g => u.takeGuard g.notice
    t.path.ports = s.path.ports ++ gs.map (fun _ => .masterAnswer true []) ∧
    t.stats = s.stats.set 22 (satAdd s.stats[(22 : Fin 24)] gs.length) ∧
    t.notices = (s.forEach (gs.map WaitingGuard.notice) State.raise).notices ∧
    OnlyChanges [.ports, .stats, .notices, .stamps, .publications] s t := by
  induction gs generalizing s with
  | nil =>
    refine ⟨by simp [State.forEach], ?_, rfl, OnlyChanges.refl _ s⟩
    show s.stats = _
    simp [satAdd_zero]
  | cons g gs ih =>
    have hp : (s.takeGuard g.notice).path.ports = s.path.ports ++ [.masterAnswer true []] := by
      simp [State.takeGuard, State.emit]
    have hc : (s.takeGuard g.notice).stats = s.stats.set 22 (satAdd s.stats[(22 : Fin 24)] 1) := by
      simp [State.takeGuard, State.bump, Stat.index, State.emit, State.setPath]
    have hn : (s.takeGuard g.notice).notices = (s.raise g.notice).notices :=
      raise_notices_congr (s := s) (t := (s.emit (.masterAnswer true [])).bump .guardDiscards) rfl rfl g.notice
    obtain ⟨h1, h2, h3, h4⟩ := ih (s.takeGuard g.notice)
    refine ⟨?_, ?_, ?_, (takeGuard_only s g.notice).trans h4⟩
    · refine h1.trans ?_
      rw [hp, List.append_assoc]
      rfl
    · refine h2.trans ?_
      rw [hc]
      simp [satAdd_satAdd, Nat.add_comm]
    · refine h3.trans ?_
      have hr : (s.takeGuard g.notice).routes = (s.raise g.notice).routes := by
        rw [takeGuard_only s g.notice .routes (by simp), raise_routes]
      exact forEach_raise_notices_congr (t := s.takeGuard g.notice) (s := s.raise g.notice) hn hr _

/-- R154: what the answer to a read makes of the guarded writes that wait. -/
theorem takeGuards_spec (s : State) (r : BusRead) :
    let gs := s.path.waitingGuards.map fun g => g.pass r
    let due := gs.filter fun g => decide (g.ahead = [])
    let t := s.takeGuards r
    t.path.waitingGuards = gs.filter (fun g => decide (g.ahead ≠ [])) ∧
    t.path.ports = s.path.ports ++ due.map (fun _ => .masterAnswer true []) ∧
    t.stats = s.stats.set 22 (satAdd s.stats[(22 : Fin 24)] due.length) ∧
    t.notices = (s.forEach (due.map WaitingGuard.notice) State.raise).notices ∧
    OnlyChanges [.waitingGuards, .ports, .stats, .notices, .stamps, .publications] s t := by
  intro gs due t
  let u := s.setPath { s.path with waitingGuards := gs.filter fun g => decide (g.ahead ≠ []) }
  obtain ⟨h1, h2, h3, h4⟩ := forEach_takeGuard u due
  have hn := forEach_raise_notices_congr (s := s) (t := u) rfl rfl (due.map WaitingGuard.notice)
  refine ⟨h4 .waitingGuards (by simp), h1, h2, h3.trans hn, ?_⟩
  refine OnlyChanges.trans ?_ (h4.mono (by simp))
  intro f hf
  cases f <;> first | rfl | exact absurd (by simp) hf

/-- With no guarded write waiting, the answer to a read makes nothing more. -/
theorem takeGuards_of_none {s : State} (h : s.path.waitingGuards = []) (r : BusRead) : s.takeGuards r = s := by
  unfold State.takeGuards
  rw [h]
  show s.setPath { s.path with waitingGuards := [] } = s
  rw [← h]
  rfl

end Sys2Proof.Machine
end

