-- ==== Sys2Proof/Laws/Images.lean ====
section
/-! SUPPORT. The lengths of the pieces of a record, and which bytes each write of a record carries. -/

namespace Sys2Proof.Machine

@[simp] theorem leBytes_length (k n : Nat) : (leBytes k n).length = k := by
  induction k generalizing n with
  | zero => rfl
  | succ k ih => simp [leBytes, ih]

@[simp] theorem zeroBytes_length (n : Nat) : (zeroBytes n).length = n := List.length_replicate

theorem fillTo_length (n : Nat) (xs : List Byte) (h : xs.length ≤ n) : (fillTo n xs).length = n := by
  simp [fillTo]; omega

@[simp] theorem blockWrites_length (n a : Nat) (xs : List Byte) : (blockWrites n a xs).length = n := by
  induction n generalizing a xs with
  | zero => rfl
  | succ n ih => simp [blockWrites, ih]

/-- Block i of a run of blocks holds the 64 bytes at 64 i. -/
theorem blockWrites_get (n a : Nat) (xs : List Byte) (i : Nat) (h : i < n) :
    (blockWrites n a xs)[i]? = some ⟨a + 64 * i, bytesAt xs (64 * i) 64⟩ := by
  induction n generalizing a xs i with
  | zero => omega
  | succ n ih =>
    cases i with
    | zero => simp [blockWrites, bytesAt]
    | succ i =>
      simp only [blockWrites, List.getElem?_cons_succ]
      rw [ih _ _ _ (by omega)]
      simp only [bytesAt, List.drop_drop, show 64 + 64 * i = 64 * (i + 1) by omega,
        show a + 64 + 64 * i = a + 64 * (i + 1) by omega]

/-- R155: one write for each block. -/
@[simp] theorem recordWrites_length (n a : Nat) (xs : List Byte) : (recordWrites n a xs).length = n + 1 := by
  cases n <;> simp [recordWrites]

/-- R155: the body blocks come first, in order. -/
theorem recordWrites_body (n a : Nat) (xs : List Byte) (i : Nat) (h : i < n) :
    (recordWrites n a xs)[i]? = some ⟨a + 64 * (i + 1), bytesAt xs (64 * (i + 1)) 64⟩ := by
  cases n with
  | zero => omega
  | succ n =>
    simp only [recordWrites]
    rw [List.getElem?_append_left (by simpa using h), blockWrites_get _ _ _ _ h]
    simp only [bytesAt, List.drop_drop, show 64 + 64 * i = 64 * (i + 1) by omega,
      show a + 64 + 64 * i = a + 64 * (i + 1) by omega]

/-- R155: the header block comes last. -/
theorem recordWrites_header (n a : Nat) (xs : List Byte) (h : n = 0 → xs.length ≤ 64) :
    (recordWrites n a xs).getLast? = some ⟨a, xs.take 64⟩ := by
  cases n with
  | zero => simp [recordWrites, List.take_of_length_le (h rfl)]
  | succ n => simp [recordWrites]

end Sys2Proof.Machine
end

