-- ==== Sys2Proof/Laws/Memory.lean ====
section
/-! SUPPORT. What the shadow memory's operations do: the canonical form is kept, and a byte reads as last written. -/

namespace Sys2Proof.Machine

/-- Below the lower bound of a canonical list nothing is listed. -/
theorem readByte_below {lo a : Nat} {m : List Host.Cell} (h : Memory.wfFrom lo m = true) (ha : a < lo) :
    readByte m a = shadowDefault := by
  induction m generalizing lo with
  | nil => rfl
  | cons c m ih =>
    obtain ⟨b, y⟩ := c
    simp only [Memory.wfFrom, Bool.and_eq_true, decide_eq_true_eq] at h
    have hne : a ≠ b := by omega
    rw [readByte, if_neg hne]
    exact ih h.2 (by omega)

theorem wfFrom_mono {lo lo' : Nat} {m : List Host.Cell} (h : Memory.wfFrom lo m = true) (hl : lo' ≤ lo) :
    Memory.wfFrom lo' m = true := by
  cases m with
  | nil => rfl
  | cons c m =>
    obtain ⟨b, y⟩ := c
    simp only [Memory.wfFrom, Bool.and_eq_true, decide_eq_true_eq] at h ⊢
    exact ⟨⟨by omega, h.1.2⟩, h.2⟩

theorem writeByte_wfFrom {lo a : Nat} {x : Byte} {m : List Host.Cell} (h : Memory.wfFrom lo m = true) (ha : lo ≤ a) :
    Memory.wfFrom lo (writeByte m a x) = true := by
  induction m generalizing lo with
  | nil =>
    simp only [writeByte]
    split
    · rfl
    · rename_i hx
      simp [Memory.wfFrom, hx, ha]
  | cons c m ih =>
    obtain ⟨b, y⟩ := c
    have h' := h
    simp only [Memory.wfFrom, Bool.and_eq_true, decide_eq_true_eq] at h'
    obtain ⟨⟨hlo, hy⟩, hm⟩ := h'
    simp only [writeByte]
    split
    · split
      · exact h
      · rename_i hx
        simp only [Memory.wfFrom, Bool.and_eq_true, decide_eq_true_eq]
        exact ⟨⟨ha, hx⟩, ⟨by omega, hy⟩, hm⟩
    · split
      · split
        · exact wfFrom_mono hm (by omega)
        · rename_i hab hx
          simp only [Memory.wfFrom, Bool.and_eq_true, decide_eq_true_eq]
          subst hab
          exact ⟨⟨ha, hx⟩, hm⟩
      · simp only [Memory.wfFrom, Bool.and_eq_true, decide_eq_true_eq]
        exact ⟨⟨hlo, hy⟩, ih hm (by omega)⟩

/-- A write keeps the canonical form. -/
theorem writeByte_wf {a : Nat} {x : Byte} {m : List Host.Cell} (h : Memory.wf m = true) :
    Memory.wf (writeByte m a x) = true :=
  writeByte_wfFrom h (Nat.zero_le a)

theorem writeBytes_wf {xs : List Host.Cell} {m : List Host.Cell} (h : Memory.wf m = true) :
    Memory.wf (writeBytes m xs) = true := by
  induction xs generalizing m with
  | nil => exact h
  | cons x xs ih => exact ih (writeByte_wf h)

/-- A byte reads as written. -/
theorem readByte_writeByte_self {lo a : Nat} {x : Byte} {m : List Host.Cell} (h : Memory.wfFrom lo m = true) :
    readByte (writeByte m a x) a = x := by
  induction m generalizing lo with
  | nil =>
    simp only [writeByte]
    split
    · rename_i hx; simp [readByte, hx]
    · simp [readByte]
  | cons c m ih =>
    obtain ⟨b, y⟩ := c
    have h' := h
    simp only [Memory.wfFrom, Bool.and_eq_true, decide_eq_true_eq] at h'
    obtain ⟨⟨hlo, hy⟩, hm⟩ := h'
    simp only [writeByte]
    split
    · split
      · rename_i hab hx
        have hne : a ≠ b := by omega
        rw [readByte, if_neg hne, readByte_below hm (by omega), hx]
      · simp [readByte]
    · split
      · split
        · rename_i hab hx
          rw [readByte_below hm (by omega), hx]
        · simp [readByte]
      · rename_i hab
        rw [readByte, if_neg hab]
        exact ih hm

/-- Every other byte reads as before. -/
theorem readByte_writeByte_ne {a b : Nat} {x : Byte} {m : List Host.Cell} (hne : b ≠ a) :
    readByte (writeByte m a x) b = readByte m b := by
  induction m with
  | nil =>
    simp only [writeByte]
    split
    · rfl
    · simp [readByte, hne]
  | cons c m ih =>
    obtain ⟨k, y⟩ := c
    simp only [writeByte]
    split
    · split
      · rfl
      · simp [readByte, hne]
    · split
      · rename_i hak
        subst hak
        split
        · simp [readByte, hne]
        · simp [readByte, hne]
      · simp only [readByte]
        rw [ih]

/-- A byte that none of the written pairs names reads as before. -/
theorem readByte_writeBytes_other {xs : List Host.Cell} {m : List Host.Cell} {b : Nat}
    (h : ∀ c ∈ xs, c.1 ≠ b) : readByte (writeBytes m xs) b = readByte m b := by
  induction xs generalizing m with
  | nil => rfl
  | cons c xs ih =>
    have h1 : c.1 ≠ b := h c List.mem_cons_self
    have h2 : ∀ d ∈ xs, d.1 ≠ b := fun d hd => h d (List.mem_cons_of_mem _ hd)
    show readByte (writeBytes (writeByte m c.1 c.2) xs) b = readByte m b
    rw [ih h2, readByte_writeByte_ne (Ne.symm h1)]

theorem placedAt_mem {a : Nat} {xs : List Byte} {c : Host.Cell} (h : c ∈ placedAt a xs) :
    a ≤ c.1 ∧ c.1 < a + xs.length := by
  induction xs generalizing a with
  | nil => simp [placedAt] at h
  | cons x xs ih =>
    simp only [placedAt, List.mem_cons] at h
    rcases h with h | h
    · subst h; simp
    · have := ih h
      simp only [List.length_cons]
      omega

/-- Outside the bytes placed from a, a byte reads as before. -/
theorem readByte_place_outside {m : List Host.Cell} {a b : Nat} {xs : List Byte}
    (h : ¬(a ≤ b ∧ b < a + xs.length)) : readByte (writeBytes m (placedAt a xs)) b = readByte m b :=
  readByte_writeBytes_other fun _ hc e => h (e ▸ placedAt_mem hc)

/-- Byte k of those placed from a reads as written. -/
theorem readByte_place_inside {m : List Host.Cell} {a : Nat} {xs : List Byte} (hm : Memory.wf m = true) (k : Nat)
    (h : k < xs.length) : readByte (writeBytes m (placedAt a xs)) (a + k) = xs[k] := by
  induction xs generalizing m a k with
  | nil => simp at h
  | cons x xs ih =>
    show readByte (writeBytes (writeByte m a x) (placedAt (a + 1) xs)) (a + k) = _
    cases k with
    | zero =>
      rw [readByte_place_outside (by omega)]
      exact readByte_writeByte_self hm
    | succ k =>
      have hk : k < xs.length := by simpa using h
      have := ih (m := writeByte m a x) (a := a + 1) (writeByte_wf hm) k hk
      simpa [Nat.add_comm, Nat.add_left_comm, Nat.add_assoc] using this

theorem readBytes_length (m : List Host.Cell) (a n : Nat) : (readBytes m a n).length = n := by
  induction n generalizing a with
  | zero => rfl
  | succ n ih => simp [readBytes, ih]

/-- The bytes placed from a read back. -/
theorem readBytes_place {m : List Host.Cell} {a : Nat} {xs : List Byte} (hm : Memory.wf m = true) :
    readBytes (writeBytes m (placedAt a xs)) a xs.length = xs := by
  induction xs generalizing m a with
  | nil => rfl
  | cons x xs ih =>
    have h0 := readByte_place_inside (m := m) (a := a) (xs := x :: xs) hm 0 (by simp)
    have h1 := ih (m := writeByte m a x) (a := a + 1) (writeByte_wf hm)
    simp only [List.length_cons, readBytes]
    rw [show readByte (writeBytes m (placedAt a (x :: xs))) a = x by simpa using h0]
    exact congrArg (x :: ·) h1

/-- Bytes that agree pointwise read alike. -/
theorem readBytes_congr {m m' : List Host.Cell} {a n : Nat}
    (h : ∀ k, k < n → readByte m (a + k) = readByte m' (a + k)) : readBytes m a n = readBytes m' a n := by
  induction n generalizing a with
  | zero => rfl
  | succ n ih =>
    simp only [readBytes]
    have h0 := h 0 (by omega)
    simp only [Nat.add_zero] at h0
    rw [h0, ih fun k hk => by
      have := h (k + 1) (by omega)
      simpa [Nat.add_assoc, Nat.add_comm 1 k] using this]

/-- The reset shadows are canonical. -/
theorem reset_shadow_wf : Memory.wf State.reset.shadow = true := rfl

end Sys2Proof.Machine
end

