-- ==== Sys2Proof/Laws/Output.lean ====
section
/-! SUPPORT. What the commit and the sort of a board do to the boards, the bins and the two rings. -/

namespace Sys2Proof.Machine

theorem countOverflow_only (s : State) (lug : Half) (k : BankId) (p : CommittedPlan) (code : Nat) :
    OnlyChanges [.stats, .notices, .stamps, .publications] s (s.countOverflow lug k p code) :=
  (countOverflow_frame _ _ _ _ (by simp)).mpr (OnlyChanges.refl _ _)

theorem fillBin_only (s : State) (n : Fin 41) :
    OnlyChanges [.bins, .notices, .stamps, .publications] s (s.fillBin n) :=
  (fillBin_frame _ (by simp)).mpr (OnlyChanges.refl _ _)

theorem writeSort_only (s : State) (lug : Half) (x : SortSlot) :
    OnlyChanges [.sortRing, .stats, .notices, .stamps, .publications] s (s.writeSort lug x) :=
  (writeSort_frame _ _ (by simp)).mpr (OnlyChanges.refl _ _)

theorem writeTrim_only (s : State) (lug : Half) (x : TrimSlot) :
    OnlyChanges [.trimRing, .stats, .notices, .stamps, .publications] s (s.writeTrim lug x) :=
  (writeTrim_frame _ _ (by simp)).mpr (OnlyChanges.refl _ _)

theorem freeSorted_only (s : State) (i : Fin 64) (p : CommittedPlan) :
    OnlyChanges [.boards, .runs, .banks, .notices, .stamps, .publications] s (s.freeSorted i p) :=
  (freeSorted_frame _ _ (by simp)).mpr (OnlyChanges.refl _ _)

/-- R129: the chosen bin gains a piece; the others stand. -/
theorem fillBin_bins (s : State) (n : Fin 41) :
    (s.fillBin n).bins = s.bins.set n
      { s.bins[n] with
        count := satAdd s.bins[n].count 1
        lifetime := satAdd s.bins[n].lifetime 1
        state := if s.reachesCapacity n (satAdd s.bins[n].count 1) then .full else s.bins[n].state } := by
  simp only [State.fillBin]
  cases s.reachesCapacity n (satAdd s.bins[n].count 1) <;> simp

/-- R130: the record stands in the slot of its lug. -/
theorem writeSort_sortRing (s : State) (lug : Half) (x : SortSlot) :
    (s.writeSort lug x).sortRing = s.sortRing.set (ringSlot lug) x := by
  simp only [State.writeSort]
  split <;> simp

/-- R123: the record stands in the slot of its lug. -/
theorem writeTrim_trimRing (s : State) (lug : Half) (x : TrimSlot) :
    (s.writeTrim lug x).trimRing = s.trimRing.set (ringSlot lug) x := by
  simp only [State.writeTrim]
  split <;> simp

theorem leaveRun_only (s : State) (n : Half) (f : RunSlot → RunSlot) :
    OnlyChanges [.runs, .notices, .stamps, .publications] s (s.leaveRun n f) :=
  (leaveRun_frame _ _ (by simp)).mpr (OnlyChanges.refl _ _)

theorem dropReference_only (s : State) (k : BankId) (lug : Half) :
    OnlyChanges [.banks, .notices, .stamps, .publications] s (s.dropReference k lug) :=
  (dropReference_frame _ _ (by simp)).mpr (OnlyChanges.refl _ _)

theorem releaseBank_refs (s : State) (k : BankId) (lug : Half) :
    (s.releaseBank k lug).banks.refs k = s.banks.refs k := by
  unfold State.releaseBank
  split
  · simp only [publish_banks, raise_banks, State.setBanks_banks]
    cases k <;> rfl
  · rfl

/-- R170: the bank loses one reference, whether or not it is released. -/
theorem dropReference_refs (s : State) (k : BankId) (lug : Half) :
    (s.dropReference k lug).banks.refs k = s.banks.refs k - 1 := by
  simp only [State.dropReference, releaseBank_refs, State.setRefs, publish_banks, State.setBanks_banks]
  cases k <;> rfl

theorem freeSorted_boards (s : State) (i : Fin 64) (p : CommittedPlan) :
    (s.freeSorted i p).boards = s.boards.set i { s.boards[i] with state := .free } := by
  simp only [State.freeSorted]
  rw [dropReference_only _ _ _ .boards (by simp), leaveRun_only _ _ _ .boards (by simp)]
  simp

theorem freeSorted_refs (s : State) (i : Fin 64) (p : CommittedPlan) :
    (s.freeSorted i p).banks.refs s.boards[i].bank = s.banks.refs s.boards[i].bank - 1 := by
  simp only [State.freeSorted]
  rw [dropReference_refs, leaveRun_only _ _ _ .banks (by simp)]
  simp

/-- R131: the sorted board is FREE with its bin stored; the other boards stand. -/
theorem sortInto_boards (s : State) (i : Fin 64) (n : Fin 41) (code : Nat) :
    (s.sortInto i n code).boards = s.boards.set i
      { s.boards[i] with state := .free, committed := some { s.boards[i].committedPlan with bin := some n } } := by
  have h : ((s.countOverflow s.boards[i].lug s.boards[i].bank s.boards[i].committedPlan code).fillBin n).boards =
      s.boards := by
    rw [fillBin_only _ _ .boards (by simp), countOverflow_only _ _ _ _ _ .boards (by simp)]
  simp only [State.sortInto]
  rw [freeSorted_boards, writeSort_only _ _ _ .boards (by simp), State.setBoard_boards, h]
  simp

theorem sortInto_bins (s : State) (i : Fin 64) (n : Fin 41) (code : Nat) :
    (s.sortInto i n code).bins = (s.fillBin n).bins := by
  have hc := countOverflow_only s s.boards[i].lug s.boards[i].bank s.boards[i].committedPlan code
  have h1 := hc .bins (by simp)
  have h2 := hc .config (by simp)
  simp only [Same] at h1 h2
  have h3 : ∀ x, (s.countOverflow s.boards[i].lug s.boards[i].bank s.boards[i].committedPlan code).reachesCapacity n x =
      s.reachesCapacity n x := by
    intro x
    simp only [State.reachesCapacity, State.capacityOf, h2]
  simp only [State.sortInto]
  rw [freeSorted_only _ _ _ .bins (by simp), writeSort_only _ _ _ .bins (by simp), State.setBoard_bins, fillBin_bins,
    fillBin_bins, h1, h3]

theorem sortInto_sortRing (s : State) (i : Fin 64) (n : Fin 41) (code : Nat) :
    (s.sortInto i n code).sortRing = s.sortRing.set (ringSlot s.boards[i].lug)
      ⟨.written, s.boards[i].lug, true, n.val, s.boards[i].committedPlan.grade, s.boards[i].committedPlan.lc,
        s.boards[i].committedPlan.wc, code⟩ := by
  simp only [State.sortInto]
  rw [freeSorted_only _ _ _ .sortRing (by simp), writeSort_sortRing, State.setBoard_sortRing,
    fillBin_only _ _ .sortRing (by simp), countOverflow_only _ _ _ _ _ .sortRing (by simp)]

theorem sortInto_refs (s : State) (i : Fin 64) (n : Fin 41) (code : Nat) :
    (s.sortInto i n code).banks.refs s.boards[i].bank = s.banks.refs s.boards[i].bank - 1 := by
  have hb : ∀ u : State, ∀ x : SortSlot, ∀ b : Board, b.bank = s.boards[i].bank → 
      (((u.setBoard i b).writeSort s.boards[i].lug x)).boards[i].bank = s.boards[i].bank := by
    intro u x b h
    have := writeSort_only (u.setBoard i b) s.boards[i].lug x .boards (by simp)
    simp only [Same] at this
    rw [this]; simp [h]
  have h : ((s.countOverflow s.boards[i].lug s.boards[i].bank s.boards[i].committedPlan code).fillBin n).boards =
      s.boards := by
    rw [fillBin_only _ _ .boards (by simp), countOverflow_only _ _ _ _ _ .boards (by simp)]
  have hf := fun (u : State) (p : CommittedPlan) (hu : u.boards[i].bank = s.boards[i].bank) =>
    hu ▸ freeSorted_refs u i p
  simp only [State.sortInto]
  rw [hf _ _ (hb _ _ _ (by simp only [h]))]
  rw [writeSort_only _ _ _ .banks (by simp), State.setBoard_banks, fillBin_only _ _ .banks (by simp),
    countOverflow_only _ _ _ _ _ .banks (by simp)]

/-- R119: the state in which a board's committed plan is selected, after the cancellation of its request. -/
theorem cancelAtCommit_only (s : State) (i : Fin 64) :
    OnlyChanges [.boards, .solver, .stats, .stamps, .publications] s (s.cancelAtCommit i) :=
  (cancelAtCommit_frame _ (by simp)).mpr (OnlyChanges.refl _ _)

theorem countFallback_only (s : State) (i : Fin 64) (p : CommittedPlan) :
    OnlyChanges [.runs, .stats, .notices, .stamps, .publications] s (s.countFallback i p) :=
  (countFallback_frame _ _ (by simp)).mpr (OnlyChanges.refl _ _)

end Sys2Proof.Machine
end

