-- ==== Sys2Proof/Laws/PerInstr.lean ====
section
/-! SUPPORT. The laws made per command: Carried says that the transaction of a well-formed command lies in one block. -/

namespace Sys2Proof.Laws.Carried

/-- Chapter 9.1: a transaction is 1 to 64 bytes within one 64-byte block. -/
def Statement (i : Instr) : Prop := i.wf = true → ∀ x ∈ i.transactions, 1 ≤ x.2 ∧ x.1 % 64 + x.2 ≤ 64

theorem inOneBlock_bounds {a n : Nat} (h : inOneBlock a n = true) : 1 ≤ n ∧ a % 64 + n ≤ 64 := by
  simpa [inOneBlock] using h

theorem write_bounds {w : BusWrite} (h : w.wf = true) : 1 ≤ w.bytes.length ∧ w.addr % 64 + w.bytes.length ≤ 64 :=
  inOneBlock_bounds h

theorem read_bounds {e : ReadEvent} (h : e.wf = true) : ∀ x ∈ e.transactions, 1 ≤ x.2 ∧ x.1 % 64 + x.2 ≤ 64 := by
  cases e with
  | accept r => intro x hx; simp only [ReadEvent.transactions, List.mem_singleton] at hx; subst hx; exact inOneBlock_bounds h
  | answer r good data =>
    intro x hx
    simp only [ReadEvent.transactions, List.mem_singleton] at hx
    subst hx
    simp only [ReadEvent.wf, Bool.and_eq_true] at h
    exact inOneBlock_bounds h.1

theorem reset : Statement (.reset) := fun _ _ hx => nomatch hx

theorem resetRelease (arenaSel : BitVec 6) : Statement (.resetRelease arenaSel) := fun _ _ hx => nomatch hx

theorem initialPublicationEnd : Statement (.initialPublicationEnd) := fun _ _ hx => nomatch hx

theorem lugEvent (order : List LugTask) : Statement (.lugEvent order) := fun _ _ hx => nomatch hx

theorem watchedWrite (w : BusWrite) : Statement (.watchedWrite w) := by
  intro h x hx
  simp only [Instr.transactions, List.mem_singleton] at hx
  subst hx
  exact write_bounds h

theorem guardedWrite (w : BusWrite) : Statement (.guardedWrite w) := by
  intro h x hx
  simp only [Instr.transactions, List.mem_singleton] at hx
  subst hx
  exact write_bounds h

theorem frameArrival (w : BusWrite) : Statement (.frameArrival w) := by
  intro h x hx
  simp only [Instr.transactions, List.mem_singleton] at hx
  subst hx
  exact write_bounds h

theorem overrideGrade (station : Byte) (lug : Half) (grade : Byte) : Statement (.overrideGrade station lug grade) := fun _ _ hx => nomatch hx

theorem overrideTrim (station : Byte) (lug : Half) (a b : Byte) : Statement (.overrideTrim station lug a b) := fun _ _ hx => nomatch hx

theorem overrideReman (station : Byte) (lug : Half) : Statement (.overrideReman station lug) := fun _ _ hx => nomatch hx

theorem overrideCancel (station : Byte) (lug : Half) : Statement (.overrideCancel station lug) := fun _ _ hx => nomatch hx

theorem overrideUnknownKind (kind station : Byte) (lug : Half) : Statement (.overrideUnknownKind kind station lug) := fun _ _ hx => nomatch hx

theorem startLine : Statement (.startLine) := fun _ _ hx => nomatch hx

theorem drainLine : Statement (.drainLine) := fun _ _ hx => nomatch hx

theorem stopLine : Statement (.stopLine) := fun _ _ hx => nomatch hx

theorem bankSwitch (bank lug : Half) : Statement (.bankSwitch bank lug) := fun _ _ hx => nomatch hx

theorem sawMask (saws : Half) : Statement (.sawMask saws) := fun _ _ hx => nomatch hx

theorem headEnable (heads : Half) : Statement (.headEnable heads) := fun _ _ hx => nomatch hx

theorem runNew : Statement (.runNew) := fun _ _ hx => nomatch hx

theorem runAdvance : Statement (.runAdvance) := fun _ _ hx => nomatch hx

theorem binHold (bin : Half) : Statement (.binHold bin) := fun _ _ hx => nomatch hx

theorem binEmpty (bin : Half) : Statement (.binEmpty bin) := fun _ _ hx => nomatch hx

theorem noticeRoute (kind route : Half) : Statement (.noticeRoute kind route) := fun _ _ hx => nomatch hx

theorem statsClear : Statement (.statsClear) := fun _ _ hx => nomatch hx

theorem commandUnknown (code : Byte) : Statement (.commandUnknown code) := fun _ _ hx => nomatch hx

theorem solveBegin : Statement (.solveBegin) := fun _ _ hx => nomatch hx

theorem solveCompletion : Statement (.solveCompletion) := fun _ _ hx => nomatch hx

theorem headStatusConsumingRead (e : ReadEvent) : Statement (.headStatusConsumingRead e) := fun h => read_bounds h

theorem runRecordConsumingRead (e : ReadEvent) : Statement (.runRecordConsumingRead e) := fun h => read_bounds h

theorem trimSortConsumingRead (e : ReadEvent) : Statement (.trimSortConsumingRead e) := fun h => read_bounds h

theorem noticeConsumingRead (e : ReadEvent) : Statement (.noticeConsumingRead e) := fun h => read_bounds h

theorem injectedWriteAnswer (index : Nat) (good : Bool) : Statement (.injectedWriteAnswer index good) := fun _ _ hx => nomatch hx

end Sys2Proof.Laws.Carried
end

