-- ==== Sys2Proof/Laws/Transit.lean ====
section
/-! SUPPORT. What the answer to a publication's last write brings: held reads forwarded, attention outputs raised, answer
bytes copied; and what a removal does to an attention output. -/

namespace Sys2Proof.Machine

theorem forEach_append {α : Type} (s : State) (xs ys : List α) (f : State → α → State) :
    s.forEach (xs ++ ys) f = (s.forEach xs f).forEach ys f := by
  simp [State.forEach, List.foldl_append]

/-- Reads forwarded in turn: each is open, and its transaction is on the downstream port. -/
theorem forEach_forwardRead_path (s : State) (rs : List BusRead) :
    (s.forEach rs State.forwardRead).path =
      { s.path with
        openReads := s.path.openReads ++ rs
        ports := s.path.ports ++ rs.map fun r => .forwardRead (s.memoryAddress r.addr) r.enables } := by
  induction rs generalizing s with
  | nil => simp [State.forEach]
  | cons r rs ih =>
    have h := ih (s.forwardRead r)
    have hm : ∀ a, (s.forwardRead r).memoryAddress a = s.memoryAddress a := fun a => rfl
    simp only [State.forEach, List.foldl_cons] at h ⊢
    rw [h]
    simp only [hm]
    simp [State.forwardRead]

/-- R156: the reads held for the records are forwarded, and the others stay. -/
theorem releaseReads_path (s : State) (records : List Record) :
    (s.releaseReads records).path =
      { s.path with
        heldReads := s.path.heldReads.filter fun r => !(s.readsHeader r).any fun x => decide (x ∈ records)
        openReads := s.path.openReads ++
          s.path.heldReads.filter fun r => (s.readsHeader r).any fun x => decide (x ∈ records)
        ports := s.path.ports ++
          (s.path.heldReads.filter fun r => (s.readsHeader r).any fun x => decide (x ∈ records)).map
            fun r => .forwardRead (s.memoryAddress r.addr) r.enables } := by
  unfold State.releaseReads
  rw [forEach_forwardRead_path]
  rfl

/-- R182: the answer to a slot write raises the output of a ring that holds the slot's notice, and changes no more. -/
theorem answerSlot_notices (s : State) (stamp : Half) (ring : Fin 2) (slot : Fin 32) :
    (s.answerSlot stamp (.notice ring slot)).notices =
      if s.notices[ring].holds slot = true ∧ s.stamp (.notice ring slot) = stamp then
        s.notices.set ring { s.notices[ring] with attn := true }
      else s.notices := by
  simp only [State.answerSlot]
  split <;> simp_all [State.setNotices]

/-- R182: the removal that empties a ring lowers its output; another leaves it. -/
theorem removeOldest_attn (s : State) (ring : Fin 2) :
    attn (s.removeOldest ring) ring = (attn s ring && decide (1 < s.notices[ring].held)) := by
  simp [attn, State.removeOldest]

theorem removeOldest_held (s : State) (ring : Fin 2) :
    (s.removeOldest ring).notices[ring].held = s.notices[ring].held - 1 := by
  simp [State.removeOldest]

/-- The writes of an initial publication made within one command all stand on the ports, in order. -/
theorem forEach_injected_ports (s : State) (xs : List InjectedWrite) :
    (s.forEach xs fun u x => u.emit (.injected x)).path = { s.path with ports := s.path.ports ++ xs.map .injected } := by
  induction xs generalizing s with
  | nil => simp [State.forEach]
  | cons x xs ih =>
    have h := ih (s.emit (.injected x))
    simp only [State.forEach, List.foldl_cons] at h ⊢
    rw [h]
    simp [State.emit]

/-- R145: a frame's outcome is counted at once, in its head's record and in the statistics. -/
theorem countFrame_only (s : State) (h : Fin 9) (o : FrameOutcome) : OnlyChanges [.heads, .stats] s (s.countFrame h o) :=
  (countFrame_frame _ _ (by simp)).mpr (OnlyChanges.refl _ _)

theorem copyAnswer_only (s : State) (q : Publication) : OnlyChanges [.shadow] s (s.copyAnswer q) :=
  (copyAnswer_frame _ (by simp)).mpr (OnlyChanges.refl _ _)

end Sys2Proof.Machine
end

