-- ==== Sys2Proof/Laws/Positions.lean ====
section
/-! SUPPORT. What each part of a commit, of a sort and of a log close does to the counters, the runs, the banks and the
notices, and what the completion of a drain does. -/

namespace Sys2Proof.Machine

/-- Notices raised after others, in a state whose rings are those that the others leave. -/
theorem raised_after {s t u : State} {xs ys : List Notice} (h : t.notices = (s.forEach xs State.raise).notices)
    (hr : t.routes = s.routes) (hu : u.notices = (t.forEach ys State.raise).notices) :
    u.notices = (s.forEach (xs ++ ys) State.raise).notices := by
  rw [forEach_append, hu]
  refine forEach_raise_notices_congr h ?_ ys
  rw [hr]
  exact ((forEach_raise_only s xs) .routes (by simp)).symm

theorem countOverflow_stats (s : State) (lug : Half) (k : BankId) (p : CommittedPlan) (code : Nat) :
    (s.countOverflow lug k p code).stats =
      if code = 3 then s.stats.set 21 (satAdd s.stats[(21 : Fin 24)] 1) else s.stats := by
  unfold State.countOverflow
  split
  · simp [Stat.index]
  · rfl

/-- R128, step 4. -/
theorem countOverflow_notices (s : State) (lug : Half) (k : BankId) (p : CommittedPlan) (code : Nat) :
    (s.countOverflow lug k p code).notices =
      (s.forEach (if code = 3 then [.binOverflow lug (matrixBin s.shadow k p).val] else []) State.raise).notices := by
  unfold State.countOverflow
  split <;> rfl

/-- R129. -/
theorem fillBin_notices (s : State) (n : Fin 41) :
    (s.fillBin n).notices =
      (s.forEach
        (if s.reachesCapacity n (satAdd s.bins[n].count 1) = true then [.binFull n.val (satAdd s.bins[n].count 1)] else [])
        State.raise).notices := by
  unfold State.fillBin
  dsimp only
  rw [publish_notices]
  split
  · exact raise_notices_congr (s := s) (t := s.setBin n _) rfl rfl _
  · rfl

theorem writeSort_stats (s : State) (lug : Half) (x : SortSlot) :
    (s.writeSort lug x).stats =
      if s.sortRing[ringSlot lug].state = .written then s.stats.set 20 (satAdd s.stats[(20 : Fin 24)] 1) else s.stats := by
  unfold State.writeSort
  dsimp only
  rw [publish_stats, State.setSort_stats]
  split
  · simp [Stat.index]
  · rfl

/-- R130. -/
theorem writeSort_notices (s : State) (lug : Half) (x : SortSlot) :
    (s.writeSort lug x).notices =
      (s.forEach
        (if s.sortRing[ringSlot lug].state = .written then [.sortOverrun s.sortRing[ringSlot lug].lug lug] else [])
        State.raise).notices := by
  unfold State.writeSort
  dsimp only
  rw [publish_notices, State.setSort_notices]
  split
  · exact raise_notices_congr (s := s) (t := s.bump .sortOverruns) rfl rfl _
  · rfl

theorem writeTrim_stats (s : State) (lug : Half) (x : TrimSlot) :
    (s.writeTrim lug x).stats =
      if s.trimRing[ringSlot lug].state = .written then s.stats.set 19 (satAdd s.stats[(19 : Fin 24)] 1) else s.stats := by
  unfold State.writeTrim
  dsimp only
  rw [publish_stats, State.setTrim_stats]
  split
  · simp [Stat.index]
  · rfl

/-- R124. -/
theorem writeTrim_notices (s : State) (lug : Half) (x : TrimSlot) :
    (s.writeTrim lug x).notices =
      (s.forEach
        (if s.trimRing[ringSlot lug].state = .written then [.trimOverrun s.trimRing[ringSlot lug].lug lug] else [])
        State.raise).notices := by
  unfold State.writeTrim
  dsimp only
  rw [publish_notices, State.setTrim_notices]
  split
  · exact raise_notices_congr (s := s) (t := s.bump .trimOverruns) rfl rfl _
  · rfl

/-- R60 and R138: the run after an event that moves a board out of line, closed where it was its last. -/
theorem leaveRun_some (s : State) (n : Half) (f : RunSlot → RunSlot) (r : Fin 8) (h : s.runOf n = some r) :
    let y := f s.runs.slots[r]
    (s.leaveRun n f).runs =
      { s.runs with slots := s.runs.slots.set r (if y.closes = true then { y with state := .closed } else y) } ∧
    (s.leaveRun n f).notices =
      (s.forEach (if y.closes = true then [.runClosed y.number r.val] else []) State.raise).notices := by
  unfold State.leaveRun
  rw [h]
  simp only [State.settleRun, State.setRun_runs, Fin.getElem_fin, Vector.getElem_set_self]
  split
  · refine ⟨by simp, ?_⟩
    exact raise_notices_congr (by simp) (by simp) _
  · refine ⟨by simp, by simp [State.forEach]⟩

theorem leaveRun_none (s : State) (n : Half) (f : RunSlot → RunSlot) (h : s.runOf n = none) : s.leaveRun n f = s := by
  unfold State.leaveRun
  rw [h]

/-- R15, R170 and R175: the reference of a sorted board goes, and a HELD bank with none left is SPARE. -/
theorem dropReference_spec (s : State) (k : BankId) (lug : Half) :
    let released := s.banks.state k = .held ∧ s.banks.refs k - 1 = 0
    let t := s.dropReference k lug
    (t.banks.refs k = s.banks.refs k - 1 ∧ t.banks.refs k.other = s.banks.refs k.other ∧
      t.banks.state k = (if released then .spare else s.banks.state k) ∧
      t.banks.state k.other = s.banks.state k.other ∧ t.banks.pendingSwitch = s.banks.pendingSwitch) ∧
    t.notices = (s.forEach (if released then [.bankReleased k lug] else []) State.raise).notices := by
  have h1 : (s.setRefs k (s.banks.refs k - 1)).banks = s.banks.setRefs k (s.banks.refs k - 1) := by simp [State.setRefs]
  have h2 : (s.banks.setRefs k (s.banks.refs k - 1)).state k = s.banks.state k := by cases k <;> rfl
  have h3 : (s.banks.setRefs k (s.banks.refs k - 1)).refs k = s.banks.refs k - 1 := by cases k <;> rfl
  simp only [State.dropReference, State.releaseBank, h1, h2, h3]
  split
  · refine ⟨?_, ?_⟩
    · simp only [publish_banks, raise_banks, State.setBanks_banks]
      cases k <;> exact ⟨rfl, rfl, rfl, rfl, rfl⟩
    · rw [publish_notices]
      exact raise_notices_congr (by simp [State.setRefs]) (by simp [State.setRefs]) _
  · refine ⟨?_, by simp [State.setRefs, State.forEach]⟩
    rw [h1]
    cases k <;> exact ⟨rfl, rfl, rfl, rfl, rfl⟩

/-- R131: the counters, the banks, the runs and the notices after the sort of a board into a bin. -/
theorem sortInto_rest (s : State) (i : Fin 64) (n : Fin 41) (code : Nat) :
    let b := s.boards[i]
    let p := b.committedPlan
    let t := s.sortInto i n code
    let old := s.sortRing[ringSlot b.lug]
    let released := s.banks.state b.bank = .held ∧ s.banks.refs b.bank - 1 = 0
    let full := s.reachesCapacity n (satAdd s.bins[n].count 1) = true
    let f := fun x : RunSlot => x.addSorted p.grade p.lc p.value p.footage
    (t.stats =
      let x := if code = 3 then s.stats.set 21 (satAdd s.stats[(21 : Fin 24)] 1) else s.stats
      if old.state = .written then x.set 20 (satAdd x[(20 : Fin 24)] 1) else x) ∧
    (t.banks.refs b.bank = s.banks.refs b.bank - 1 ∧ t.banks.refs b.bank.other = s.banks.refs b.bank.other ∧
      t.banks.state b.bank = (if released then .spare else s.banks.state b.bank) ∧
      t.banks.state b.bank.other = s.banks.state b.bank.other ∧ t.banks.pendingSwitch = s.banks.pendingSwitch) ∧
    (s.runOf b.run = none → t.runs = s.runs) ∧
    (∀ r, s.runOf b.run = some r →
      let y := f s.runs.slots[r]
      t.runs =
        { s.runs with slots := s.runs.slots.set r (if y.closes = true then { y with state := .closed } else y) }) ∧
    t.notices =
      (s.forEach
        ((if code = 3 then [.binOverflow b.lug (matrixBin s.shadow b.bank p).val] else []) ++
          (if full then [.binFull n.val (satAdd s.bins[n].count 1)] else []) ++
          (if old.state = .written then [.sortOverrun old.lug b.lug] else []) ++
          (match s.runOf b.run with
            | none => []
            | some r => if (f s.runs.slots[r]).closes = true then [.runClosed (f s.runs.slots[r]).number r.val] else []) ++
          (if released then [.bankReleased b.bank b.lug] else [])) State.raise).notices := by
  intro b p t old released full f
  obtain ⟨s1, h1⟩ : ∃ x, x = s.countOverflow b.lug b.bank p code := ⟨_, rfl⟩
  obtain ⟨s2, h2⟩ : ∃ x, x = s1.fillBin n := ⟨_, rfl⟩
  obtain ⟨s3, h3⟩ : ∃ x, x = s2.setBoard i { s2.boards[i] with committed := some { p with bin := some n } } := ⟨_, rfl⟩
  obtain ⟨s4, h4⟩ : ∃ x, x = s3.writeSort b.lug ⟨.written, b.lug, true, n.val, p.grade, p.lc, p.wc, code⟩ := ⟨_, rfl⟩
  obtain ⟨s5, h5⟩ : ∃ x, x = (s4.setBoard i { s4.boards[i] with state := .free }).publish .lugTracker (.board i) :=
    ⟨_, rfl⟩
  obtain ⟨s6, h6⟩ : ∃ x, x = s5.leaveRun b.run f := ⟨_, rfl⟩
  have e1 : OnlyChanges [.stats, .notices, .stamps, .publications] s s1 := h1 ▸ countOverflow_only _ _ _ _ _
  have e2 : OnlyChanges [.bins, .notices, .stamps, .publications] s1 s2 := h2 ▸ fillBin_only _ _
  have e3 : OnlyChanges [.boards] s2 s3 := h3 ▸ (setBoard_frame _ _ (by simp)).mpr (OnlyChanges.refl _ _)
  have e4 : OnlyChanges [.sortRing, .stats, .notices, .stamps, .publications] s3 s4 := h4 ▸ writeSort_only _ _ _
  have e5 : OnlyChanges [.boards, .stamps, .publications] s4 s5 :=
    h5 ▸ (publish_frame _ _ (by simp)).mpr ((setBoard_frame _ _ (by simp)).mpr (OnlyChanges.refl _ _))
  have e6 : OnlyChanges [.runs, .notices, .stamps, .publications] s5 s6 := h6 ▸ leaveRun_only _ _ _
  have g2 : OnlyChanges [.stats, .bins, .notices, .stamps, .publications] s s2 :=
    (e1.mono (by simp)).trans (e2.mono (by simp))
  have g3 : OnlyChanges [.boards, .stats, .bins, .notices, .stamps, .publications] s s3 :=
    (g2.mono (by simp)).trans (e3.mono (by simp))
  have g4 : OnlyChanges [.sortRing, .boards, .stats, .bins, .notices, .stamps, .publications] s s4 :=
    (g3.mono (by simp)).trans (e4.mono (by simp))
  have g5 : OnlyChanges [.sortRing, .boards, .stats, .bins, .notices, .stamps, .publications] s s5 :=
    g4.trans (e5.mono (by simp))
  have g6 : OnlyChanges [.runs, .sortRing, .boards, .stats, .bins, .notices, .stamps, .publications] s s6 :=
    (g5.mono (by simp)).trans (e6.mono (by simp))
  have b2 : s2.boards = s.boards := g2 .boards (by simp)
  have b3 : s3.boards = s.boards.set i { b with committed := some { p with bin := some n } } := by
    rw [h3]; simp only [State.setBoard_boards, b2]; rfl
  have b4 : s4.boards = s3.boards := e4 .boards (by simp)
  have hb4 : s4.boards[i] = { b with committed := some { p with bin := some n } } := by rw [b4, b3]; simp
  have ht : t = s6.dropReference b.bank b.lug := by
    have h : s.sortInto i n code = s4.freeSorted i p := by rw [h4, h3, h2, h1]; rfl
    refine h.trans ?_
    rw [h6, h5]
    unfold State.freeSorted
    rw [hb4]
  have r5 : s5.runs = s.runs := g5 .runs (by simp)
  have k6 : s6.banks = s.banks := g6 .banks (by simp)
  have ro5 : s5.routes = s.routes := g5 .routes (by simp)
  have run5 : s5.runOf b.run = s.runOf b.run := by unfold State.runOf; rw [r5]
  have hd := dropReference_spec s6 b.bank b.lug
  rw [k6] at hd
  have hs3 : s3.sortRing = s.sortRing := g3 .sortRing (by simp)
  have hst3 : s3.stats = s1.stats := Same.trans (f := .stats) (e2 .stats (by simp)) (e3 .stats (by simp))
  have e7 : OnlyChanges [.banks, .notices, .stamps, .publications] s6 t := ht ▸ dropReference_only _ _ _
  have q : t.runs = s6.runs := e7 .runs (by simp)
  refine ⟨?_, ?_, ?_, ?_, ?_⟩
  · have h : t.stats = s4.stats :=
      Same.trans (f := .stats) (e5 .stats (by simp)) (Same.trans (f := .stats) (e6 .stats (by simp)) (e7 .stats (by simp)))
    rw [h, h4, writeSort_stats, hs3, hst3, h1, countOverflow_stats]
  · rw [ht]; exact hd.1
  · intro hr
    rw [q, h6, leaveRun_none _ _ _ (run5.trans hr), r5]
  · intro r hr
    have h := (leaveRun_some s5 b.run f r (run5.trans hr)).1
    rw [r5] at h
    rw [q, h6]; exact h
  · have n2 : s2.notices = _ :=
      raised_after (xs := if code = 3 then [.binOverflow b.lug (matrixBin s.shadow b.bank p).val] else [])
        (ys := if full then [.binFull n.val (satAdd s.bins[n].count 1)] else [])
        (h1 ▸ countOverflow_notices _ _ _ _ _) (e1 .routes (by simp)) (by
          have hb : s1.bins = s.bins := e1 .bins (by simp)
          have hc : s1.config = s.config := e1 .config (by simp)
          have hr : ∀ x, s1.reachesCapacity n x = s.reachesCapacity n x := by
            intro x
            simp only [State.reachesCapacity, State.capacityOf, hc]
          rw [h2, fillBin_notices, hb, hr])
    have n3 : s3.notices = s2.notices := e3 .notices (by simp)
    have n4 := raised_after (n3.trans n2) (g3 .routes (by simp)) (u := s4)
      (ys := if old.state = .written then [.sortOverrun old.lug b.lug] else []) (by rw [h4, writeSort_notices, hs3])
    have n5 : s5.notices = s4.notices := e5 .notices (by simp)
    have n6 := raised_after (n5.trans n4) ro5 (u := s6)
      (ys := match s.runOf b.run with
        | none => []
        | some r => if (f s.runs.slots[r]).closes = true then [.runClosed (f s.runs.slots[r]).number r.val] else []) (by
        cases hr : s.runOf b.run with
        | none => rw [h6, leaveRun_none _ _ _ (run5.trans hr)]; rfl
        | some r => rw [h6, (leaveRun_some s5 b.run f r (run5.trans hr)).2, r5])
    exact raised_after n6 (g6 .routes (by simp)) (u := t) (by rw [ht]; exact hd.2)

/-- R5: when a drain is done. -/
def State.drained (s : State) : Prop := s.lineState = .drain ∧ s.anyInUse = false ∧ s.logUnit.openLog = none

theorem drainIfDone_not (s : State) (h : ¬s.drained) : s.drainIfDone = s := if_neg h

theorem dropPendingSwitch_banks (s : State) :
    s.dropPendingSwitch.banks = { s.banks with pendingSwitch := none } := by
  unfold State.dropPendingSwitch
  split
  · rename_i h
    cases hb : s.banks
    rw [hb] at h
    simp only at h
    rw [h]
  · simp

theorem dropPendingSwitch_notices (s : State) :
    s.dropPendingSwitch.notices =
      (s.forEach (s.banks.pendingSwitch.toList.map fun x => .bankSwitched x.1 .dropped) State.raise).notices := by
  unfold State.dropPendingSwitch
  split
  · rename_i h
    simp [h, State.forEach]
  · rename_i k lug h
    rw [h]
    exact raise_notices_congr (s := s) (t := s.setBanks { s.banks with pendingSwitch := none }) rfl rfl _

/-- R5 and R174: the completion of a drain. -/
theorem drainIfDone_done (s : State) (h : s.drained) :
    let t := s.drainIfDone
    t.lineState = .idle ∧ t.lugLine = Vector.replicate 64 none ∧ t.held = [] ∧
    t.banks = { s.banks with pendingSwitch := none } ∧
    t.notices =
      (s.forEach ((s.banks.pendingSwitch.toList.map fun x => .bankSwitched x.1 .dropped) ++ [.lineIdle s.lc])
        State.raise).notices ∧
    (s.path.initialRest = [] → t.stamp .stats = s.stamp .stats + 1) ∧
    OnlyChanges [.lineState, .lugLine, .held, .banks, .notices, .stamps, .publications] s t := by
  obtain ⟨v, hv⟩ : ∃ v : State, v = ({ s with lugLine := Vector.replicate 64 none, held := [] } : State) := ⟨_, rfl⟩
  have hd : s.drainIfDone = (((v.dropPendingSwitch.setLineState .idle).publish .lugTracker .status).publish .tally
      .stats).raise (.lineIdle s.lc) := by
    have hl : (((v.dropPendingSwitch.setLineState .idle).publish .lugTracker .status).publish .tally .stats).lc = s.lc := by
      have := (dropPendingSwitch_frame (T := [.banks, .notices, .stamps, .publications]) (s := v) (t := v)
        (by simp)).mpr (OnlyChanges.refl _ v) .lc (by simp)
      simp only [publish_lc, State.setLineState_lc]
      rw [this, hv]
    rw [← hl, hv]
    exact if_pos h
  have hf := (dropPendingSwitch_frame (T := [.banks, .notices, .stamps, .publications]) (s := v) (t := v)
    (by simp)).mpr (OnlyChanges.refl _ v)
  have hn : v.notices = s.notices := by rw [hv]
  have hr : v.routes = s.routes := by rw [hv]
  have hb : v.banks = s.banks := by rw [hv]
  refine ⟨?_, ?_, ?_, ?_, ?_, ?_, ?_⟩
  · rw [hd]; simp
  · rw [hd]; simp only [raise_lugLine, publish_lugLine, State.setLineState_lugLine]
    rw [hf .lugLine (by simp), hv]
  · rw [hd]; simp only [raise_held, publish_held, State.setLineState_held]
    rw [hf .held (by simp), hv]
  · rw [hd]; simp only [raise_banks, publish_banks, State.setLineState_banks, dropPendingSwitch_banks, hb]
  · refine raised_after (t := v.dropPendingSwitch) ?_ ?_ ?_
    · rw [dropPendingSwitch_notices, hb]
      exact forEach_raise_notices_congr hn hr _
    · rw [hf .routes (by simp), hr]
    · rw [hd]
      exact raise_notices_congr (by simp) (by simp) _
  · intro hi
    have hs : v.dropPendingSwitch.stamp .stats = s.stamp .stats := by
      unfold State.dropPendingSwitch
      split
      · rw [hv]; rfl
      · rw [raise_stamp _ _ _ (by simp) (by simp), hv]; rfl
    have hp : v.dropPendingSwitch.path.initialRest = [] := by
      rw [hf .initialRest (by simp), hv]; exact hi
    rw [hd, raise_stamp _ _ _ (by simp) (by simp), stamp_publish, stamp_publish]
    rw [if_pos ⟨rfl, by rw [publish_initialRest]; simp [hp]⟩, if_neg fun k => by cases k.1]
    exact congrArg (· + 1) hs
  · rw [hd]
    have h0 : OnlyChanges [.lugLine, .held] s v := by
      rw [hv]; intro f hf; cases f <;> first | rfl | (simp at hf)
    refine (raise_frame _ (by simp)).mpr ((publish_frame _ _ (by simp)).mpr ((publish_frame _ _ (by simp)).mpr ?_))
    refine (setLineState_frame _ (by simp)).mpr ((h0.mono (by simp)).trans (hf.mono (by simp)))

end Sys2Proof.Machine
end

