-- ==== Sys2Proof/Laws/Rings.lean ====
section
/-! SUPPORT. What giving one entry to a master-written ring does, out of INIT: the entry stands in the shadow as given,
is taken at once, and the counts pass it. -/

namespace Sys2Proof.Machine

/-- The state in which the owner of a ring takes an entry that a master has placed and announced (R159). -/
def State.announced (s : State) (ring : Ring) (bytes : List Byte) : State :=
  let p := (s.counts ring).consumer
  ((s.masterWrite (ring.entryOffset (entryIndex p)) bytes).masterWrite ring.countOffset
    (leBytes 2 (p + 1).toNat)).setCounts ring ⟨p + 1, p, none⟩

/-- After the taking of an entry: the consumer count passes it, and the status block is republished (R160). -/
def State.passed (s : State) (ring : Ring) (consumer : Half) : State :=
  (s.setCounts ring { s.counts ring with consumer := consumer }).publish ring.owner .status

@[simp] theorem masterWrite_shadow (s : State) (o : Nat) (xs : List Byte) :
    (s.masterWrite o xs).shadow = writeBytes s.shadow (placedAt o xs) := rfl
@[simp] theorem masterWrite_lineState (s : State) (o : Nat) (xs : List Byte) :
    (s.masterWrite o xs).lineState = s.lineState := rfl
@[simp] theorem masterWrite_counts (s : State) (o : Nat) (xs : List Byte) (ring : Ring) :
    (s.masterWrite o xs).counts ring = s.counts ring := by cases ring <;> rfl

@[simp] theorem counts_setCounts (s : State) (ring : Ring) (x : RingCounts) : (s.setCounts ring x).counts ring = x := by
  cases ring <;> rfl
@[simp] theorem setCounts_shadow (s : State) (ring : Ring) (x : RingCounts) : (s.setCounts ring x).shadow = s.shadow := by
  cases ring <;> rfl
@[simp] theorem setCounts_lc (s : State) (ring : Ring) (x : RingCounts) : (s.setCounts ring x).lc = s.lc := by
  cases ring <;> rfl
@[simp] theorem setCounts_lineState (s : State) (ring : Ring) (x : RingCounts) :
    (s.setCounts ring x).lineState = s.lineState := by
  cases ring <;> rfl

theorem readByte_place_at {m : List Host.Cell} {a b : Nat} {xs : List Byte} (hm : Memory.wf m = true) (k : Nat)
    (hk : k < xs.length) (hb : b = a + k) : readByte (writeBytes m (placedAt a xs)) b = xs[k] := by
  rw [hb, readByte_place_inside hm k hk]

/-- A 16-bit number written little-endian reads back. -/
theorem half_of_leBytes (x : Half) :
    BitVec.ofNat 16 ((BitVec.ofNat 8 x.toNat).toNat + 256 * (BitVec.ofNat 8 (x.toNat / 256)).toNat) = x := by
  apply BitVec.eq_of_toNat_eq
  simp only [BitVec.toNat_ofNat]
  have := x.isLt
  omega

theorem countWord_placed (s : State) (ring : Ring) (hs : Memory.wf s.shadow = true) (c : Half) :
    (s.masterWrite ring.countOffset (leBytes 2 c.toNat)).countWord ring = c := by
  unfold State.countWord field16 field8
  rw [masterWrite_shadow,
    readByte_place_at (a := ring.countOffset) (b := ring.countOffset) hs 0 (by simp) rfl, readByte_place_at hs 1 (by simp) rfl]
  exact half_of_leBytes c

theorem commandOffset_lt (i : Fin 64) : commandOffset i + 0x20 ≤ 0x1800 ∧ 0x1000 ≤ commandOffset i := by
  unfold commandOffset; omega
theorem overrideOffset_lt (i : Fin 64) : overrideOffset i + 0x20 ≤ 0x2800 ∧ 0x2000 ≤ overrideOffset i := by
  unfold overrideOffset; omega

/-- The bytes of a ring entry read back as the entry, whatever is written elsewhere. -/
theorem readCommandEntry_placed {m m' : List Host.Cell} (hm : Memory.wf m = true) (i : Fin 64) (x : CommandEntry)
    (h : ∀ a, commandOffset i ≤ a → a < commandOffset i + 16 →
      readByte m' a = readByte (writeBytes m (placedAt (commandOffset i) x.bytes)) a) :
    readCommandEntry m' i = x := by
  have hl : x.bytes.length = 16 := by simp [CommandEntry.bytes, fillTo, zeroBytes]
  have at_ : ∀ k, (hk : k < 16) → readByte m' (commandOffset i + k) = x.bytes[k]'(by omega) := by
    intro k hk
    rw [h _ (by omega) (by omega), readByte_place_at hm k (by omega) rfl]
  have h0 := at_ 0 (by omega)
  have h2 := at_ 2 (by omega)
  have h3 := at_ 3 (by omega)
  have h4 := at_ 4 (by omega)
  have h5 := at_ 5 (by omega)
  unfold readCommandEntry field16 field8
  rw [Nat.add_zero] at h0
  rw [h0, h2, Nat.add_assoc, h3, h4, Nat.add_assoc, h5]
  simp only [CommandEntry.bytes, fillTo, leBytes, List.cons_append, List.nil_append, List.getElem_cons_zero,
    List.getElem_cons_succ]
  rw [half_of_leBytes, half_of_leBytes]

theorem readOverrideEntry_placed {m m' : List Host.Cell} (hm : Memory.wf m = true) (i : Fin 64) (x : OverrideEntry)
    (h : ∀ a, overrideOffset i ≤ a → a < overrideOffset i + 16 →
      readByte m' a = readByte (writeBytes m (placedAt (overrideOffset i) x.bytes)) a) :
    readOverrideEntry m' i = x := by
  have hl : x.bytes.length = 16 := by simp [OverrideEntry.bytes, fillTo, zeroBytes]
  have at_ : ∀ k, (hk : k < 16) → readByte m' (overrideOffset i + k) = x.bytes[k]'(by omega) := by
    intro k hk
    rw [h _ (by omega) (by omega), readByte_place_at hm k (by omega) rfl]
  have h0 := at_ 0 (by omega)
  have h1 := at_ 1 (by omega)
  have h2 := at_ 2 (by omega)
  have h3 := at_ 3 (by omega)
  have h4 := at_ 4 (by omega)
  have h5 := at_ 5 (by omega)
  have h6 := at_ 6 (by omega)
  unfold readOverrideEntry field16 field8
  rw [Nat.add_zero] at h0
  rw [h0, h1, h2, Nat.add_assoc, h3, h4, h5, h6]
  simp only [OverrideEntry.bytes, fillTo, leBytes, List.cons_append, List.nil_append, List.getElem_cons_zero,
    List.getElem_cons_succ]
  rw [half_of_leBytes]

theorem one_ahead (p : Half) : (p + 1 - p).toNat = 1 := by
  rw [show p + 1 - p = 1 by rw [BitVec.add_comm, BitVec.add_sub_cancel]]; rfl

/-- An entry given to a ring out of INIT: the owner takes what the shadow holds in its place (R159, R160). -/
theorem giveEntry_taken (s : State) (ring : Ring) (h : s.Takes ring) (bytes : List Byte) :
    s.giveEntry ring bytes =
      ((s.announced ring bytes).takeEntry (entryIndex (s.counts ring).consumer)
        (ring.read (s.announced ring bytes).shadow (entryIndex (s.counts ring).consumer))).passed ring
          ((s.counts ring).consumer + 1) := by
  have hn : s.nextEntry ring = (s.counts ring).consumer := by simp [State.nextEntry, h.nonePending]
  have hw := countWord_placed (s.masterWrite (ring.entryOffset (entryIndex (s.counts ring).consumer)) bytes) ring
    (writeBytes_wf h.canonical) ((s.counts ring).consumer + 1)
  simp only [State.giveEntry, h.released, Bool.false_eq_true, if_false, hn, State.countArrival, hw, masterWrite_counts,
    one_ahead, masterWrite_lineState, h.outOfInit, Nat.reduceLT, State.takeArrival, Nat.one_ne_zero, State.arriving,
    masterWrite_shadow]
  simp only [List.range_succ, List.range_zero, List.nil_append, List.map_cons, List.map_nil, State.forEach,
    List.foldl_cons, List.foldl_nil, BitVec.add_zero, State.passed, State.announced, setCounts_shadow, masterWrite_shadow]

/-- A command given out of INIT is taken at once, as it was given (R166). -/
theorem giveCommand_taken (s : State) (h : s.Takes .command) (code : Byte) (a b : Half) :
    s.giveCommand code a b =
      ((s.announced .command (CommandEntry.bytes ⟨code, a, b⟩)).takeCommand (entryIndex s.cmdRing.consumer)
        ⟨code, a, b⟩).passed .command (s.cmdRing.consumer + 1) := by
  have hr := readCommandEntry_placed (m' := (s.announced .command (CommandEntry.bytes ⟨code, a, b⟩)).shadow)
    h.canonical (entryIndex s.cmdRing.consumer) ⟨code, a, b⟩ (by
      intro x h1 h2
      have := commandOffset_lt (entryIndex s.cmdRing.consumer)
      simp only [State.announced, setCounts_shadow, masterWrite_shadow]
      exact readByte_place_outside (by simp [Ring.countOffset]; omega))
  rw [State.giveCommand, giveEntry_taken s .command h]
  simp only [State.counts, Ring.read, hr, State.takeEntry]

/-- An override given out of INIT is taken at once, as it was given (R102). -/
theorem giveOverride_taken (s : State) (h : s.Takes .override) (x : OverrideEntry) :
    s.giveOverride x =
      ((s.announced .override x.bytes).takeOverride (entryIndex s.ovrRing.consumer) x).passed .override
        (s.ovrRing.consumer + 1) := by
  have hr := readOverrideEntry_placed (m' := (s.announced .override x.bytes).shadow)
    h.canonical (entryIndex s.ovrRing.consumer) x (by
      intro a h1 h2
      have := overrideOffset_lt (entryIndex s.ovrRing.consumer)
      simp only [State.announced, setCounts_shadow, masterWrite_shadow]
      exact readByte_place_outside (by simp [Ring.countOffset]; omega))
  rw [State.giveOverride, giveEntry_taken s .override h]
  simp only [State.counts, Ring.read, hr, State.takeEntry]

theorem setCounts_command_frame {T : List Field} {s t : State} (x : RingCounts)
    (hT : ∀ f ∈ ([.cmdRing] : List Field), f ∈ T) :
    OnlyChanges T s (t.setCounts .command x) ↔ OnlyChanges T s t :=
  OnlyChanges.iff_of (A := [.cmdRing]) (by intro f hf; cases f <;> first | (simp at hf; done) | rfl) hT

theorem setCounts_override_frame {T : List Field} {s t : State} (x : RingCounts)
    (hT : ∀ f ∈ ([.ovrRing] : List Field), f ∈ T) :
    OnlyChanges T s (t.setCounts .override x) ↔ OnlyChanges T s t :=
  OnlyChanges.iff_of (A := [.ovrRing]) (by intro f hf; cases f <;> first | (simp at hf; done) | rfl) hT

/-- Placing and announcing an entry touches the ring's counts, the shadow and the ports. -/
theorem announced_command_frame (s : State) (bytes : List Byte) :
    OnlyChanges [.cmdRing, .shadow, .ports] s (s.announced .command bytes) := by
  simp [State.announced, setCounts_command_frame]

theorem announced_override_frame (s : State) (bytes : List Byte) :
    OnlyChanges [.ovrRing, .shadow, .ports] s (s.announced .override bytes) := by
  simp [State.announced, setCounts_override_frame]

@[simp] theorem announced_counts (s : State) (ring : Ring) (bytes : List Byte) :
    (s.announced ring bytes).counts ring = ⟨(s.counts ring).consumer + 1, (s.counts ring).consumer, none⟩ := by
  simp [State.announced]

@[simp] theorem announced_lc (s : State) (ring : Ring) (bytes : List Byte) : (s.announced ring bytes).lc = s.lc := by
  cases ring
  · exact announced_command_frame s bytes .lc (by simp)
  · exact announced_override_frame s bytes .lc (by simp)

theorem passed_command_frame (s : State) (c : Half) : OnlyChanges [.cmdRing, .stamps, .publications] s (s.passed .command c) := by
  simp [State.passed, setCounts_command_frame]

theorem passed_override_frame (s : State) (c : Half) : OnlyChanges [.ovrRing, .stamps, .publications] s (s.passed .override c) := by
  simp [State.passed, setCounts_override_frame]

theorem passed_command_cmdRing (s : State) (c : Half) :
    (s.passed .command c).cmdRing = { s.cmdRing with consumer := c } := by
  have : OnlyChanges [.stamps, .publications] (s.setCounts .command { s.cmdRing with consumer := c })
      (s.passed .command c) := by
    simp [State.passed, State.counts]
  exact this .cmdRing (by simp)

theorem passed_override_ovrRing (s : State) (c : Half) :
    (s.passed .override c).ovrRing = { s.ovrRing with consumer := c } := by
  have : OnlyChanges [.stamps, .publications] (s.setCounts .override { s.ovrRing with consumer := c })
      (s.passed .override c) := by
    simp [State.passed, State.counts]
  exact this .ovrRing (by simp)

theorem writeAnswer_shadow (s : State) (o : FunctionalBlock) (k : PubTarget) (a : Nat) (xs : List Byte) :
    (s.writeAnswer o k a xs).shadow = writeBytes s.shadow (placedAt (a + 0x10) xs) := rfl

theorem writeAnswer_counts (s : State) (o : FunctionalBlock) (k : PubTarget) (a : Nat) (xs : List Byte) (ring : Ring) :
    (s.writeAnswer o k a xs).counts ring = s.counts ring := by cases ring <;> rfl

/-- The shadow of an announced entry: the entry and the count are written, the rest stands. -/
theorem announced_shadow (s : State) (ring : Ring) (bytes : List Byte) :
    (s.announced ring bytes).shadow =
      writeBytes (writeBytes s.shadow (placedAt (s.entrySlot ring) bytes))
        (placedAt ring.countOffset (leBytes 2 ((s.counts ring).consumer + 1).toNat)) := by
  simp [State.announced, State.entrySlot]

theorem announced_wf (s : State) (ring : Ring) (bytes : List Byte) (h : Memory.wf s.shadow = true) :
    Memory.wf (s.announced ring bytes).shadow = true := by
  rw [announced_shadow]; exact writeBytes_wf (writeBytes_wf h)

theorem answered_shadow (s : State) (ring : Ring) (bytes answer : List Byte) (hb : bytes.length = 16)
    (ha : answer.length = 8) (h : Memory.wf s.shadow = true) (t : State)
    (ht : t.shadow = writeBytes (s.announced ring bytes).shadow (placedAt (s.entrySlot ring + 0x10) answer)) :
    t.answerAt (s.entrySlot ring) = answer ∧ ShadowFrame s t ring := by
  constructor
  · have := readBytes_place (a := s.entrySlot ring + 0x10) (xs := answer) (announced_wf s ring bytes h)
    rw [ha] at this
    rw [State.answerAt, ht, this]
  · intro a h1 h2 h3
    rw [ht, announced_shadow, readByte_place_outside, readByte_place_outside, readByte_place_outside]
    · rw [hb]; omega
    · rw [leBytes_length]; omega
    · rw [ha]; omega

theorem takeCommand_shadow (s : State) (i : Fin 64) (x : CommandEntry) :
    (s.takeCommand i x).shadow =
      writeBytes (s.doCommand x.command).1.shadow
        (placedAt (commandOffset i + 0x10) ((s.doCommand x.command).2.bytes s.lc)) :=
  writeAnswer_shadow _ _ _ _ _

theorem takeOverride_shadow (s : State) (i : Fin 64) (x : OverrideEntry) :
    (s.takeOverride i x).shadow =
      writeBytes (s.decideOverride x).1.shadow
        (placedAt (overrideOffset i + 0x10) ((s.decideOverride x).2.bytes s.lc)) :=
  writeAnswer_shadow _ _ _ _ _

/-- What a command given out of INIT does to its entry, the counts and the shadows, whatever it asks for. -/
theorem giveCommand_answered (s : State) (h : s.Takes .command) (code : Byte) (a b : Half) :
    Answered s (s.giveCommand code a b) .command
      ((((s.announced .command (CommandEntry.bytes ⟨code, a, b⟩)).doCommand
        (CommandEntry.command ⟨code, a, b⟩)).2).bytes s.lc) := by
  rw [giveCommand_taken s h]
  have hf : OnlyChanges [.lineState, .config, .lugLine, .boards, .heads, .solver, .held, .bins, .logUnit, .runs, .stats,
      .banks, .sawMask, .routes, .notices, .stamps, .publications] (s.announced .command (CommandEntry.bytes ⟨code, a, b⟩))
      ((s.announced .command (CommandEntry.bytes ⟨code, a, b⟩)).doCommand (CommandEntry.command ⟨code, a, b⟩)).1 := by
    simp
  have hsh := hf .shadow (by simp)
  have hcr := hf .cmdRing (by simp)
  have hcu := announced_counts s .command (CommandEntry.bytes ⟨code, a, b⟩)
  have h1 := answered_shadow s .command (CommandEntry.bytes ⟨code, a, b⟩)
    ((((s.announced .command (CommandEntry.bytes ⟨code, a, b⟩)).doCommand
      (CommandEntry.command ⟨code, a, b⟩)).2).bytes s.lc)
    (by simp [CommandEntry.bytes, fillTo, zeroBytes]) (by simp [CommandAnswer.bytes]) h.canonical _
    (by
      rw [passed_command_frame _ (s.cmdRing.consumer + 1) .shadow (by simp), takeCommand_shadow, hsh, announced_lc]
      rfl)
  refine ⟨h1.1, ?_, h1.2⟩
  rw [State.counts, passed_command_cmdRing]
  have hk : ∀ v : State, ∀ x : CommandEntry, (v.takeCommand (entryIndex s.cmdRing.consumer) x).cmdRing =
      (v.doCommand x.command).1.cmdRing := fun v x =>
    writeAnswer_counts _ _ _ _ _ .command
  rw [hk, hcr]
  simp only [State.counts] at hcu ⊢
  rw [hcu]

/-- Beside its entry, the counts, the shadows and what reports them, a command given out of INIT does what the command
unit does with it. -/
theorem giveCommand_effect (s : State) (h : s.Takes .command) (code : Byte) (a b : Half) :
    OnlyChanges [.cmdRing, .shadow, .stamps, .publications]
      ((s.announced .command (CommandEntry.bytes ⟨code, a, b⟩)).doCommand (CommandEntry.command ⟨code, a, b⟩)).1
      (s.giveCommand code a b) := by
  rw [giveCommand_taken s h]
  simp [State.passed, State.takeCommand, setCounts_command_frame]

/-- What an override given out of INIT does to its entry, the counts and the shadows, whatever it asks for. -/
theorem giveOverride_answered (s : State) (h : s.Takes .override) (x : OverrideEntry) :
    Answered s (s.giveOverride x) .override ((((s.announced .override x.bytes).decideOverride x).2).bytes s.lc) := by
  rw [giveOverride_taken s h]
  have hf : OnlyChanges [.lugLine, .boards, .solver, .held, .stats, .notices, .stamps, .publications]
      (s.announced .override x.bytes) ((s.announced .override x.bytes).decideOverride x).1 := by
    simp
  have hsh := hf .shadow (by simp)
  have hcr := hf .ovrRing (by simp)
  have hcu := announced_counts s .override x.bytes
  have h1 := answered_shadow s .override x.bytes ((((s.announced .override x.bytes).decideOverride x).2).bytes s.lc)
    (by simp [OverrideEntry.bytes, fillTo, zeroBytes]) (by simp [OverrideAnswer.bytes]) h.canonical _
    (by
      rw [passed_override_frame _ (s.ovrRing.consumer + 1) .shadow (by simp), takeOverride_shadow, hsh, announced_lc]
      rfl)
  refine ⟨h1.1, ?_, h1.2⟩
  rw [State.counts, passed_override_ovrRing]
  have hk : ∀ v : State, (v.takeOverride (entryIndex s.ovrRing.consumer) x).ovrRing = (v.decideOverride x).1.ovrRing :=
    fun v => writeAnswer_counts _ _ _ _ _ .override
  rw [hk, hcr]
  simp only [State.counts] at hcu ⊢
  rw [hcu]

/-- Beside its entry, the counts, the shadows and what reports them, an override given out of INIT does what the
override unit decides, and counts its answer. -/
theorem giveOverride_effect (s : State) (h : s.Takes .override) (x : OverrideEntry) :
    OnlyChanges [.ovrRing, .shadow, .stamps, .publications]
      (((s.announced .override x.bytes).decideOverride x).1.bump
        ((s.announced .override x.bytes).decideOverride x).2.code.stat)
      (s.giveOverride x) := by
  rw [giveOverride_taken s h]
  simp [State.passed, State.takeOverride, setCounts_override_frame]

end Sys2Proof.Machine
end

