-- ==== Sys2Proof/Laws/Tables.lean ====
section
/-! SUPPORT. What the checks and the configuration read: only the bytes of the block or bank they examine. -/

namespace Sys2Proof.Machine

/-- Two shadows agree on the n bytes from a. -/
def AgreeOn (a n : Nat) (m m' : List Host.Cell) : Prop := ∀ b, a ≤ b → b < a + n → readByte m' b = readByte m b

theorem AgreeOn.field8 {a n b : Nat} {m m' : List Host.Cell} (h : AgreeOn a n m m') (h1 : a ≤ b) (h2 : b < a + n) :
    field8 m' b = field8 m b := by
  unfold Machine.field8; rw [h b h1 h2]

theorem AgreeOn.field16 {a n b : Nat} {m m' : List Host.Cell} (h : AgreeOn a n m m') (h1 : a ≤ b) (h2 : b + 1 < a + n) :
    field16 m' b = field16 m b := by
  unfold Machine.field16; rw [h.field8 h1 (by omega), h.field8 (by omega) h2]

theorem readConfig_congr {m m' : List Host.Cell} (h : AgreeOn 0x3000 0x1000 m m') : readConfig m' = readConfig m := by
  have e8 : ∀ a, 0x3000 ≤ a → a < 0x3100 → Machine.field8 m' a = Machine.field8 m a := fun a h1 h2 =>
    h.field8 h1 (by omega)
  have e16 : ∀ a, 0x3000 ≤ a → a < 0x3100 → Machine.field16 m' a = Machine.field16 m a := fun a h1 h2 =>
    h.field16 h1 (by omega)
  have s1 : (fun k : Fin 8 => Machine.field8 m' (0x3008 + k.val)) = fun k => Machine.field8 m (0x3008 + k.val) :=
    funext fun k => e8 _ (by omega) (by omega)
  have s2 : (fun k : Fin 8 => Machine.field8 m' (0x3010 + k.val)) = fun k => Machine.field8 m (0x3010 + k.val) :=
    funext fun k => e8 _ (by omega) (by omega)
  have s3 : (fun k : Fin 40 => Machine.field16 m' (0x3020 + 2 * k.val)) = fun k => Machine.field16 m (0x3020 + 2 * k.val) :=
    funext fun k => e16 _ (by omega) (by omega)
  have s4 : (fun k : Fin 40 => Machine.field8 m' (0x3070 + k.val)) = fun k => Machine.field8 m (0x3070 + k.val) :=
    funext fun k => e8 _ (by omega) (by omega)
  unfold readConfig
  rw [s1, s2, s3, s4, e8 0x3000 (by decide) (by decide), e8 0x3001 (by decide) (by decide),
    e8 0x3002 (by decide) (by decide)]

theorem firstFailing_congr {xs : List Nat} {p q : Nat → Bool} (h : ∀ i ∈ xs, p i = q i) :
    firstFailing xs p = firstFailing xs q := by
  unfold firstFailing
  induction xs with
  | nil => rfl
  | cons x xs ih =>
    have hx := h x List.mem_cons_self
    have := ih fun i hi => h i (List.mem_cons_of_mem _ hi)
    simp [List.find?, hx, this]

/-- Item lists of one shape, whose tests agree on the indices they are asked about, find the same item. -/
theorem firstFailingItem_cons_congr {c : Nat} {xs : List Nat} {p q : Nat → Bool}
    {ps qs : List (Nat × List Nat × (Nat → Bool))} (h : ∀ i ∈ xs, p i = q i)
    (ht : firstFailingItem ps = firstFailingItem qs) :
    firstFailingItem ((c, xs, p) :: ps) = firstFailingItem ((c, xs, q) :: qs) := by
  unfold firstFailingItem
  rw [firstFailing_congr h, ht]

theorem configCheck_congr {m m' : List Host.Cell} (h : AgreeOn 0x3000 0x1000 m m') : configCheck m' = configCheck m := by
  have e8 : ∀ a, 0x3000 ≤ a → a < 0x3100 → Machine.field8 m' a = Machine.field8 m a := fun a h1 h2 =>
    h.field8 h1 (by omega)
  have e16 : ∀ a, 0x3000 ≤ a → a < 0x3100 → Machine.field16 m' a = Machine.field16 m a := fun a h1 h2 =>
    h.field16 h1 (by omega)
  have hb : ∀ i ∈ (List.range 40).map (· + 1), i < 41 := by
    intro i hi
    simp only [List.mem_map, List.mem_range] at hi
    obtain ⟨k, hk, rfl⟩ := hi
    omega
  unfold configCheck
  rw [e8 0x3000 (by decide) (by decide), e8 0x3001 (by decide) (by decide), e8 0x3002 (by decide) (by decide)]
  refine firstFailingItem_cons_congr (fun _ _ => rfl) (firstFailingItem_cons_congr (fun _ _ => rfl)
    (firstFailingItem_cons_congr (fun _ _ => rfl) (firstFailingItem_cons_congr ?_ (firstFailingItem_cons_congr ?_
      (firstFailingItem_cons_congr ?_ (firstFailingItem_cons_congr ?_ rfl))))))
  · intro i hi
    have := List.mem_range.mp hi
    rw [e8 _ (by omega) (by omega)]
  · intro i hi
    have := List.mem_range.mp hi
    rw [e8 _ (by omega) (by omega)]
  · intro i hi
    have := hb i hi
    rw [e16 _ (by omega) (by omega)]
  · intro i hi
    have := hb i hi
    rw [e8 _ (by omega) (by omega)]

theorem bankCheck_congr {m m' : List Host.Cell} {k : BankId} (h : AgreeOn (bankBase k) 0x1000 m m') :
    bankCheck m' k = bankCheck m k := by
  have e8 : ∀ a, bankBase k ≤ a → a < bankBase k + 0xFF0 → Machine.field8 m' a = Machine.field8 m a := fun a h1 h2 =>
    h.field8 h1 (by omega)
  have e16 : ∀ a, bankBase k ≤ a → a < bankBase k + 0xFF0 → Machine.field16 m' a = Machine.field16 m a := fun a h1 h2 =>
    h.field16 h1 (by omega)
  unfold bankCheck bankMinLen bankUnknownGrade bankOverflowGrade bankThickness bankWidth bankWidthBoundary bankSortEntry
    bankRule
  rw [e8 _ (by omega) (by omega), e8 (bankBase k + 0xA1) (by omega) (by omega),
    e8 (bankBase k + 0xA2) (by omega) (by omega), e8 (bankBase k + 0xA3) (by omega) (by omega)]
  refine firstFailingItem_cons_congr (fun _ _ => rfl) (firstFailingItem_cons_congr (fun _ _ => rfl)
    (firstFailingItem_cons_congr (fun _ _ => rfl) (firstFailingItem_cons_congr ?_ (firstFailingItem_cons_congr
      (fun _ _ => rfl) (firstFailingItem_cons_congr ?_ (firstFailingItem_cons_congr ?_
        (firstFailingItem_cons_congr ?_ rfl)))))))
  · intro i hi
    have := List.mem_range.mp hi
    simp only [e8 (bankBase k + 0x20 + 4 * i + 2) (by omega) (by omega)]
  · intro i hi
    have := List.mem_range.mp hi
    simp only [e8 (bankBase k + 0xA4 + i) (by omega) (by omega)]
  · intro i hi
    have h4 : i ≤ 4 := by simp at hi; omega
    simp only [e16 (bankBase k + 0xB0 + 2 * i) (by omega) (by omega),
      e16 (bankBase k + 0xB0 + 2 * (i - 1)) (by omega) (by omega)]
  · intro i hi
    have := List.mem_range.mp hi
    simp only [e8 (bankBase k + 0x500 + i) (by omega) (by omega)]

/-- An entry placed and announced in a ring leaves every shadow above the rings as it was. -/
theorem announced_above {s : State} {ring : Ring} {bytes : List Byte} (hb : bytes.length = 16) {a : Nat} (ha : 0x2804 ≤ a) :
    readByte (s.announced ring bytes).shadow a = readByte s.shadow a := by
  rw [announced_shadow, readByte_place_outside, readByte_place_outside]
  · have h1 := commandOffset_lt (entryIndex (s.counts ring).consumer)
    have h2 := overrideOffset_lt (entryIndex (s.counts ring).consumer)
    rw [hb]
    cases ring <;> simp only [State.entrySlot, Ring.entryOffset] <;> omega
  · rw [leBytes_length]
    cases ring <;> simp only [Ring.countOffset] <;> omega

theorem announced_agreeOn {s : State} {ring : Ring} {bytes : List Byte} (hb : bytes.length = 16) {a n : Nat}
    (ha : 0x2804 ≤ a) : AgreeOn a n s.shadow (s.announced ring bytes).shadow :=
  fun _ h1 _ => announced_above hb (by omega)

@[simp] theorem CommandEntry.bytes_length (x : CommandEntry) : x.bytes.length = 16 := by
  simp [CommandEntry.bytes, fillTo, zeroBytes]
@[simp] theorem OverrideEntry.bytes_length (x : OverrideEntry) : x.bytes.length = 16 := by
  simp [OverrideEntry.bytes, fillTo, zeroBytes]

end Sys2Proof.Machine
end

