-- ==== Sys2Proof/Tests/Slice0.lean ====
section
/-! SUPPORT. Tests: the checks of WellFormed refuse ill-formed commands, small steps on small states by the manual's
examples, and for each statement with hypotheses a state and operands that meet them. -/

namespace Sys2Proof.Tests

open Sys2Proof.Machine

set_option Elab.async false

/-! ### Well-formedness -/

theorem test_wf_write_empty : (Instr.watchedWrite ⟨0x3000, [], true⟩).wf = false := by decide
theorem test_wf_write_across_blocks : (Instr.guardedWrite ⟨0x303F, [(1, true), (2, true)], true⟩).wf = false := by decide
theorem test_wf_frame_across_blocks : (Instr.frameArrival ⟨0x1003F, [(1, true), (2, true)], true⟩).wf = false := by decide
theorem test_wf_write_good : (Instr.watchedWrite ⟨0x303E, [(1, true), (2, true)], true⟩).wf = true := by decide
theorem test_wf_read_empty : (Instr.headStatusConsumingRead (.accept ⟨0x20000, []⟩)).wf = false := by decide
theorem test_wf_read_across_blocks : (Instr.runRecordConsumingRead (.accept ⟨0x5003F, [true, true]⟩)).wf = false := by decide
theorem test_wf_read_short_data : (Instr.trimSortConsumingRead (.answer ⟨0x40000, [true, true]⟩ true [0])).wf = false := by
  decide
theorem test_wf_read_good : (Instr.noticeConsumingRead (.answer ⟨0x70000, [true, true]⟩ true [0, 0])).wf = true := by decide
theorem test_wf_known_kind : (Instr.overrideUnknownKind 4 0 0).wf = false := by decide
theorem test_wf_unknown_kind : (Instr.overrideUnknownKind 5 0 0).wf = true := by decide
theorem test_wf_known_code : (Instr.commandUnknown 12).wf = false := by decide
theorem test_wf_unknown_code : (Instr.commandUnknown 0).wf = true := by decide
theorem test_wf_tasks_twice : (Instr.lugEvent [.close, .close]).wf = false := by decide

/-! ### States -/

/-- The state a command answers. -/
def after (c : Instr) (s : State) : State :=
  match exec c s with
  | .next t => t
  | .fault _ => s
  | .refused _ => s

/-- Out of INIT, in IDLE. -/
def idle : State := { State.reset with resetLow := false, lineState := .idle }

/-- W = 1, C = 3, S = 6, one slice a head, capacity 2, no alternates; station 7 has rank 7. -/
def testConfig : LineConfig where
  w := 1
  c := 3
  s := 6
  slices := Vector.replicate 8 1
  ranks := (Vector.replicate 8 0).set 7 7
  capacity := Vector.replicate 40 2
  alternate := Vector.replicate 40 0

/-- In RUN at LC = 100 with nothing on the line. -/
def running : State := { idle with lineState := .run, config := some testConfig, lc := 100 }

/-- The shadow of a configuration that passes: W = 1, C = 2, S = 4, one slice a head, every capacity 1. -/
def goodConfig : List Host.Cell :=
  placedAt 0x3000 [1, 2, 4] ++ placedAt 0x3008 (List.replicate 8 1)
    ++ (List.range 40).map fun i => (0x3020 + 2 * i, 1)

/-- The shadow of a bank that passes: minimum length 1, thickness 4, every width 4, and zeros. -/
def goodBank (k : BankId) : List Host.Cell :=
  placedAt (bankBase k + 0xA0) [1] ++ placedAt (bankBase k + 0xA3) [4, 4, 4, 4, 4, 4, 4]

/-- In IDLE with a configuration and both banks good. -/
def ready : State := { idle with shadow := goodConfig ++ goodBank .a ++ goodBank .b }

/-- A board in slot 0 on a lug. -/
def withBoard (s : State) (lug : Half) (b : Board) : State :=
  (s.setBoard 0 { b with lug := lug }).setEntry lug (some ⟨lug, some 0, none, false⟩)

def boardIn (x : BoardState) : Board := { Board.blank with state := x }

/-- An empty lug in the line, with an override attached or none. -/
def withLug (s : State) (lug : Half) (o : Option Override) : State := s.setEntry lug (some ⟨lug, none, o, false⟩)

/-- The notices that a ring's slots show. -/
def shownBy (s : State) (ring : Fin 2) : List Notice := s.notices[ring].slots.toList.filterMap fun x => x.map Prod.fst

def grade2 : Override := ⟨0, .grade 2⟩

theorem idle_takes_command : idle.Takes .command := ⟨rfl, by decide, rfl, rfl, rfl⟩
theorem running_takes_command : running.Takes .command := ⟨rfl, by decide, rfl, rfl, rfl⟩
theorem ready_takes_command : ready.Takes .command := ⟨rfl, by decide, rfl, rfl, rfl⟩
theorem running_takes_override : running.Takes .override := ⟨rfl, by decide, rfl, rfl, rfl⟩
theorem idle_takes_override : idle.Takes .override := ⟨rfl, by decide, rfl, rfl, rfl⟩

/-! ### The manual's examples -/

/-- 3.3.1. -/
theorem test_log_volume :
    (OpenLog.record ⟨1, [(300, 280), (296, 284), (290, 276), (286, 270)], 0⟩ 1 1 false) =
      ⟨1, 1, 1, 4, 0, false, 1000, 278, 290, 64⟩ := by decide

/-- 3.3.2: sections 2 and 3 are filled by holding section 1. -/
theorem test_log_gap :
    ((((⟨812, [(310, 300)], 0⟩ : OpenLog).append 1 (306, 298)).append 4 (300, 290)).append 5 (296, 288)).record 42 3 false =
      ⟨42, 812, 3, 6, 2, false, 1500, 292, 305, 106⟩ := by decide

/-- 3.3.2: close count 42 writes slot 9. -/
theorem test_log_slot : logSlot 42 = 9 := by decide

/-- The largest log of R54. -/
theorem test_log_volume_largest : (OpenLog.volume ⟨1, List.replicate 96 (2000, 2000), 0⟩) = 75398 := by decide +kernel

/-- The bank of Table 4-6, as bank A. -/
def gradingBank : List Host.Cell :=
  writeBytes [] (placedAt 0x4010 [100, 0, 44, 1, 244, 1, 32, 3] ++ placedAt 0x4020 [119, 7, 4]
    ++ placedAt 0x4098 [0, 2, 4, 6, 8, 12, 63] ++ placedAt 0x40A1 [2, 5, 8, 12, 16, 24, 32, 40, 48]
    ++ placedAt 0x40B0 (leBytes 2 6500 ++ leBytes 2 11500 ++ leBytes 2 16500 ++ leBytes 2 21500 ++ leBytes 2 26500))

/-- Table 4-4. -/
theorem test_escalation :
    [(0, 0), (3, 0), (7, 3), (20, 5), (64, 6), (40, 7)].map (fun x => escalate gradingBank .a x.1 8 x.2) =
      [0, 2, 4, 6, 7, 7] := by decide +kernel

/-- 4.4.2: rule 0 fires on a wane depth of 950 and not on 0. -/
theorem test_rule_high :
    ruleFires gradingBank .a (bankRule gradingBank .a 0) ⟨4500, 14000, 950, true, true, true, 0⟩ = true ∧
      ruleFires gradingBank .a (bankRule gradingBank .a 0) ⟨4500, 14000, 0, true, true, true, 0⟩ = false := by
  decide +kernel

/-- 4.4: class 2 for a width of 14000, and 14000 mfbm for 14 ft of a 2 by 6. -/
theorem test_footage : segmentFootage gradingBank .a 3 7 2 = 14000 := by decide +kernel

/-- R95: of equal values the greater length code, then the smaller a. -/
theorem test_best_candidate :
    bestOf [(4, ⟨3, 6, 2, 640, 0⟩), (1, ⟨3, 7, 2, 640, 0⟩), (0, ⟨3, 7, 2, 640, 0⟩)] = some (0, ⟨3, 7, 2, 640, 0⟩) := by decide

/-! ### Commands -/

theorem test_reset : (after .reset running).lineState = .init := by decide +kernel

theorem test_release : (after (.resetRelease 3) State.reset).path.arenaBase = 0x1800000 := by decide +kernel

theorem test_init_ends : (after .initialPublicationEnd { State.reset with resetLow := false }).lineState = .idle := by
  decide +kernel

theorem test_start_line :
    let t := after .startLine ready
    t.lineState = .run ∧ t.runs.infeed = some 0 ∧ t.bins[(40 : Fin 41)].capacity = 1 ∧
      t.answerAt 0x1000 = [1, 0, 0, 0, 0, 0, 0, 0] := by
  decide +kernel

theorem test_start_line_bad_config : (after .startLine idle).answerAt 0x1000 = answerBytes 4 0 1 0 := by decide +kernel

theorem test_drain_line : (after .drainLine running).lineState = .idle := by decide +kernel

theorem test_stop_line :
    (after .stopLine (withBoard running 99 (boardIn .measuring))).boards[(0 : Fin 64)].state = .free := by decide +kernel

theorem test_bank_switch :
    (after (.bankSwitch 1 0) ready).banks = ⟨.spare, .active, 0, 0, none⟩ ∧
      shownBy (after (.bankSwitch 1 0) ready) 0 = [.bankSwitched .b (.made 0 .spare)] := by decide +kernel

theorem test_saw_mask : (after (.sawMask 0x0FFF) idle).sawMask = 0x0FFF := by decide +kernel

theorem test_head_enable : (after (.headEnable 0x1FE) idle).heads[(0 : Fin 9)].enabled = false := by decide +kernel

theorem test_run_new : (after .runNew idle).runs.nextNumber = 2 := by decide +kernel

theorem test_run_advance : (after .runAdvance (after .runNew (after .runNew idle))).runs.outfeed = some 1 := by decide +kernel

theorem test_bin_hold : (after (.binHold 5) idle).bins[(5 : Fin 41)].state = .hold := by decide +kernel

theorem test_bin_empty : (after (.binEmpty 5) (after (.binHold 5) idle)).bins[(5 : Fin 41)].state = .opened := by
  decide +kernel

theorem test_notice_route : (after (.noticeRoute 12 0) idle).routes[(11 : Fin 18)] = .ring0 := by decide +kernel

theorem test_stats_clear : (after .statsClear (idle.bump .gapEvents)).stats[(9 : Fin 24)] = 0 := by decide +kernel

theorem test_unknown_command : (after (.commandUnknown 77) idle).answerAt 0x1000 = answerBytes 10 0 0 0 := by decide +kernel

theorem test_override_held :
    let t := after (.overrideGrade 2 102 4) running
    t.held = [⟨102, ⟨2, .grade 4⟩⟩] ∧ t.answerAt 0x2000 = [1, 0, 100, 0, 0xFF, 0, 0, 0] := by decide +kernel

theorem test_override_trim_bad : (after (.overrideTrim 2 102 5 5) running).answerAt 0x2000 = [5, 0, 100, 0, 0xFF, 0, 0, 0] := by
  decide +kernel

theorem test_override_reman_measuring :
    (after (.overrideReman 3 99) (withBoard running 99 (boardIn .measuring))).boards[(0 : Fin 64)].override =
      some ⟨3, .reman⟩ := by decide +kernel

theorem test_override_cancel :
    (after (.overrideCancel 2 102) (after (.overrideGrade 2 102 4) running)).held = [] := by decide +kernel

theorem test_override_unknown_kind :
    (after (.overrideUnknownKind 9 2 102) running).stats[(18 : Fin 24)] = 1 := by decide +kernel

theorem test_lug_event :
    let t := after (.lugEvent []) running
    t.lc = 101 ∧ t.entry 101 = some ⟨101, none, none, false⟩ := by decide +kernel

/-- The head 8 frame of a log: kind 2, head 8, sequence 5, section 0, log 812, no end flag, (310, 300). -/
def logFrame : List Byte :=
  [2, 8, 5, 0] ++ leBytes 2 812 ++ [0, 0] ++ leBytes 2 310 ++ leBytes 2 300 ++ zeroBytes 236

/-- The frame above in slot 0 of head 8, but for its trailer, with its first three blocks marked. -/
def beforeLogFrame : State :=
  { running with
    shadow := writeBytes [] (placedAt 0x18000 logFrame)
    heads := running.heads.set 8 { Head.atReset with marks := Head.atReset.marks.set 0 7 } }

/-- The trailer: the marker and the checksum, the sum of the frame's first 62 words. -/
def trailer : List Byte := leBytes 4 0x7E5A1C3B ++ leBytes 4 (wordSum beforeLogFrame.shadow 0x18000 62)

def trailerWrite : BusWrite := ⟨0x180F8, trailer.map fun x => (x, true), true⟩

theorem test_frame_arrival :
    let t := after (.frameArrival trailerWrite) beforeLogFrame
    t.logUnit.openLog = some ⟨812, [(310, 300)], 0⟩ ∧ t.heads[(8 : Fin 9)].expected = some 6 ∧
      t.heads[(8 : Fin 9)].marks[(0 : Fin 16)] = 0 ∧ t.stats[(1 : Fin 24)] = 1 ∧
      t.heads[(8 : Fin 9)].counters[(0 : Fin 8)] = 1 := by decide +kernel

/-- The same arrival with the first block not marked fails its form check. -/
theorem test_frame_arrival_unformed :
    (after (.frameArrival trailerWrite) { beforeLogFrame with heads := running.heads }).heads[(8 : Fin 9)].frame = true := by
  decide +kernel

theorem test_watched_write :
    field8 (after (.watchedWrite ⟨0x3000, [(1, true), (9, false), (4, true)], true⟩) idle).shadow 0x3002 = 4 := by
  decide +kernel

theorem test_guarded_write :
    let t := after (.guardedWrite ⟨0x3000, [(1, true), (2, true)], true⟩) running
    t.shadow = [] ∧ t.stats[(22 : Fin 24)] = 1 ∧ t.path.ports = [.masterAnswer true []] := by decide +kernel

def queuedBoard : State :=
  { (withBoard running 98 { boardIn .queued with request := some .first }) with solver := ⟨[0], none, none, [], none⟩ }

theorem test_solve :
    let t := after .solveCompletion (after .solveBegin queuedBoard)
    t.boards[(0 : Fin 64)].state = .solved ∧ t.solver = ⟨[], none, none, [], none⟩ := by decide +kernel

/-- An alias read of exactly one header word. -/
def headerRead (o : Nat) : BusRead := ⟨0x400000 + o, List.replicate 8 true⟩

/-- The state with reads forwarded and not yet answered. -/
def withReads (s : State) (rs : List BusRead) : State := s.setPath { s.path with openReads := rs }

def flagged : State := { idle with heads := idle.heads.set 2 { Head.atReset with chk := true, gap := true, expected := some 9 } }

theorem test_head_read :
    let t := after (.headStatusConsumingRead (.answer (headerRead 0x20080) true [2, 1, 2, 1, 0, 0, 0, 0]))
      (withReads flagged [headerRead 0x20080])
    t.heads[(2 : Fin 9)].chk = false ∧ t.heads[(2 : Fin 9)].gap = true ∧ t.heads[(2 : Fin 9)].expected = none := by
  decide +kernel

def closedRun : State :=
  { idle with runs := { RunUnit.atReset with slots := RunUnit.atReset.slots.set 1 ⟨.closed, 7, 0, Tally.zero⟩, queue := [1] } }

theorem test_run_read :
    (after (.runRecordConsumingRead (.answer (headerRead 0x50800) true [7, 0, 3, 1, 0, 0, 0, 0]))
    (withReads closedRun [headerRead 0x50800])).runs.queue = [] := by
  decide +kernel

def written : State :=
  { idle with
    trimRing := idle.trimRing.set 4 ⟨.written, 100, false, 0, none, 0, 0⟩
    sortRing := idle.sortRing.set 4 ⟨.written, 100, false, 0, 0, 0, 0, 0⟩ }

theorem test_trim_read :
    (after (.trimSortConsumingRead (.answer (headerRead 0x40080) true [1, 0, 100, 0, 0, 0, 0, 0]))
      (withReads written [headerRead 0x40080])).trimRing[(4 : Fin 16)].state = .consumed := by decide +kernel

theorem test_sort_read_other_lug :
    (after (.trimSortConsumingRead (.answer (headerRead 0x41080) true [1, 0, 84, 0, 0, 0, 0, 0]))
      (withReads written [headerRead 0x41080])).sortRing[(4 : Fin 16)].state = .written := by decide +kernel

def noticed : State := { (idle.raise (.lineIdle 7)) with path := { idle.path with publications := [] } }

theorem test_notice_read :
    let t := after (.noticeConsumingRead (.answer (headerRead 0x70000) true [14, 0, 0, 0, 7, 0, 1, 0]))
      (withReads noticed [headerRead 0x70000])
    t.notices[(0 : Fin 2)].held = 0 ∧ attn t 0 = false := by decide +kernel

/-- R148: an answer to a read accepted before a reset does nothing. -/
theorem test_read_before_reset :
    let s := after (.noticeConsumingRead (.accept (headerRead 0x70000))) noticed
    let t := after (.noticeConsumingRead (.answer (headerRead 0x70000) true [14, 0, 0, 0, 7, 0, 1, 0]))
      (after (.resetRelease 0) (after .reset s))
    s.path.openReads = [headerRead 0x70000] ∧ t.path.openReads = [] ∧ t.path.ports = [] := by decide +kernel

/-- R182: with one notice answered and a second held, removing the first leaves ATTN high; removing the second lowers it. -/
theorem test_attn_stays_until_empty :
    let s := (idle.setNotices 0 { NoticeRing.atReset with next := 2, held := 2, attn := true })
    attn (s.removeOldest 0) 0 = true ∧ attn ((s.removeOldest 0).removeOldest 0) 0 = false := by decide +kernel

/-- R154 and R160: an answer write waits for a status publication, and a master writes over the entry meanwhile; the
answer is ordered later, and stands in the shadow when it is issued. -/
def answerWaiting : State :=
  { idle with
    shadow := [(0x1010, 9)]
    path := { idle.path with
      publications :=
        [ ⟨.record (.bin 5), .command, 1, 1, [⟨0x600A0, []⟩]⟩,
          ⟨.commandAnswer 0, .command, 1, 0, [⟨0x1010, [1, 0, 7, 0, 0, 0, 0, 0]⟩]⟩ ] } }

theorem test_answer_ordered_later :
    answerWaiting.answerAt 0x1000 = [9, 0, 0, 0, 0, 0, 0, 0] ∧
      (after (.injectedWriteAnswer 0 true) answerWaiting).answerAt 0x1000 = [1, 0, 7, 0, 0, 0, 0, 0] := by decide +kernel

/-- R162: 962 blocks. -/
theorem test_init_blocks :
    (initialUnits.map fun u => (u.records.head?.map Record.bodyBlocks).getD 0 + 1).sum = 962 := by decide +kernel

/-- R162: the writes of the unit begun that follow the one issued, and then every write of the units not begun, are made
before INIT ends. -/
theorem test_init_writes_all :
    ((after .initialPublicationEnd
      { State.reset with
        resetLow := false
        path := { Path.atReset with
          publications := [⟨.initial (.log 0), .path, 0, 0, [⟨0x900C0, []⟩, ⟨0x90000, []⟩]⟩]
          initialRest := [.log 14, .log 15] } }).path.ports.filterMap PortEvent.ownWrite).map InjectedWrite.offset =
      [0x90000, 0x90E40, 0x90E80, 0x90EC0, 0x90E00, 0x90F40, 0x90F80, 0x90FC0, 0x90F00] := by decide +kernel

/-- R15: a record never opened shows slot 0, and an opened one its own. -/
theorem test_board_slot_byte :
    (idle.image (.board 5))[3]? = some 0 ∧
      ((idle.setBoard 5 (Board.opened 5 99 1 .a none)).image (.board 5))[3]? = some 5 := by decide +kernel

/-- R50, R145 and R5: the statistics published at the drain completion that a log's last section brings show that section
as taken. -/
theorem test_last_section_counted_before_close :
    let s := ((running.setLineState .drain).setLogUnit { running.logUnit with openLog := some ⟨812, [(310, 300)], 0⟩ })
    let t := s.takeLogFrame ⟨2, 8, 6, 1, 812, true, 0, [], [], 306, 298, 0x7E5A1C3B, 9, 9⟩
    t.lineState = .idle ∧
      ((t.path.publications.find? fun p => decide (p.target = .record .stats)).bind fun p =>
        p.writes.getLast?.map fun x => bytesAt x.bytes 12 4) = some [1, 0, 0, 0] := by decide +kernel

/-- One publication of a notice slot in transit, for the notice that the slot holds. -/
def inTransit : State :=
  { idle.raise (.lineIdle 7) with
    path := { idle.path with
      stamps := idle.path.stamps.set 155 1
      publications := [⟨.record (.notice 0 0), .notice, 0, 1, [⟨0x70000, []⟩]⟩] } }

theorem test_injected_answer_raises_attn :
    attn inTransit 0 = false ∧ attn (after (.injectedWriteAnswer 0 true) inTransit) 0 = true ∧
      (after (.injectedWriteAnswer 0 false) inTransit).path.publications = [] := by decide +kernel

/-! ### States that meet the hypotheses of the statements, clause by clause, at the ends of their ranges -/

theorem test_meets_EveryCommandAnswersNext : State.reset.pending = [] := rfl

theorem test_meets_ResetReleaseBegins : State.reset.resetLow = true := rfl

def inInit : State := { State.reset with resetLow := false }

theorem test_meets_InitialPublicationEnds :
    (inInit.resetLow = false ∧ inInit.lineState = .init ∧ inInit.cmdRing.pendingCount = none ∧
      inInit.ovrRing.pendingCount = none) ∧
    (({ inInit with cmdRing := ⟨0, 0, some 1⟩, ovrRing := ⟨0, 0, some 64⟩ } : State).pendingEntries .command = 1 ∧
      ({ inInit with cmdRing := ⟨0, 0, some 1⟩, ovrRing := ⟨0, 0, some 64⟩ } : State).pendingEntries .override = 64 ∧
      ({ inInit with cmdRing := ⟨0, 0, some 1⟩, ovrRing := ⟨0, 0, some 64⟩ } : State).ShadowCanonical) ∧
    ((after (.resetRelease 0) State.reset).path.publications.filter isInitial).length = 1 := by
  refine ⟨by decide +kernel, ⟨by decide +kernel, by decide +kernel, rfl⟩, by decide +kernel⟩

/-- One override and one command entry given in INIT: answered at its end, the one NOT_RUNNING, the other OK. -/
theorem test_init_end_takes_pending :
    let t := after .initialPublicationEnd (after .statsClear (after (.overrideGrade 2 102 4) inInit))
    t.ovrRing = ⟨1, 1, none⟩ ∧ t.cmdRing = ⟨1, 1, none⟩ ∧ t.answerAt 0x2000 = overrideAnswerBytes 4 0 0 0xFF ∧
      t.answerAt 0x1000 = answerBytes 1 0 0 0 ∧ t.lineState = .idle := by decide +kernel

/-- Lug 100 has entered scan with an override held for it and a switch to bank B pending, and a board of bank A in line. -/
def entering (m : List Host.Cell) : State :=
  { withLug running 100 none with
    shadow := m
    held := [⟨100, grade2⟩, ⟨101, grade2⟩]
    banks := ⟨.active, .spare, 1, 0, some (.b, 100)⟩ }

theorem test_meets_LugEventAdvances :
    idle.running = false ∧ running.running = true ∧ (running.setLineState .drain).running = true ∧
      (entering []).entry 100 = some ⟨100, none, none, false⟩ ∧
      (let t := (entering (goodBank .b)).lugTask .enter
       t.entry 100 = some ⟨100, none, some grade2, false⟩ ∧ t.held = [⟨101, grade2⟩] ∧
        t.banks = ⟨.held, .active, 1, 0, none⟩ ∧ shownBy t 0 = [.bankSwitched .b (.made 100 .held)]) ∧
      (let t := (entering []).lugTask .enter
       t.banks = ⟨.active, .spare, 1, 0, none⟩ ∧ shownBy t 0 = [.bankSwitched .b (.refused 1 0)]) ∧
      ((withLug running 100 none).heldFor 100 = none ∧ (withLug running 100 none).banks.pendingSwitch = none) := by
  decide +kernel

theorem test_meets_LugEventOnEmptyLine :
    running.running = true ∧ running.path.initialRest = [] ∧
    (∀ d ∈ [running.windowW + 1, running.commitC, running.sortS],
      1 ≤ d ∧ d ≤ 63 ∧ running.entry (running.lc + 1 - BitVec.ofNat 16 d) = none) ∧
    running.heldFor (running.lc + 1) = none ∧ running.banks.pendingSwitch = none := by decide +kernel

def productPlanOf (o : Option Override) : Plan := ⟨none, 0, 4, 3, 4, 2, 400, 8000, .solved, o, 0x1FFF, 1⟩

theorem test_meets_CommitSelection :
    (({ boardIn .solved with override := some ⟨0, .reman⟩ } : Board).override.map Override.action = some .reman) ∧
    (({ boardIn .solved with plan := some (productPlanOf none) } : Board).override.map Override.action ≠ some .reman ∧
      (productPlanOf none).overrideUsed = (boardIn .solved).override) ∧
    (({ boardIn .queued with override := some grade2, stale := some (productPlanOf none) } : Board).state ≠ .solved ∧
      (productPlanOf none).reason = none ∧ sawsWithin (productPlanOf none).saws 0x0011 = true ∧
      sawsWithin (productPlanOf none).saws 0x0010 = false) ∧
    (({ boardIn .awaiting with override := some ⟨0, .trim 0 4⟩ } : Board).override.map Override.action = some (.trim 0 4)) ∧
    ((boardIn .solving).state ≠ .solved ∧ (boardIn .solving).override = none) ∧
    (({ boardIn .queued with override := some grade2 } : Board).stale = none) := by decide +kernel

/-- A FINISHING run, number 7, with its last board in line. -/
def finishing : RunUnit :=
  { RunUnit.atReset with slots := RunUnit.atReset.slots.set 1 ⟨.finishing, 7, 1, Tally.zero⟩, queue := [1] }

/-- At lug 97 a board with a request, its credit and what the solver holds beside it; board 1 waits for a credit, and the
trim record of lug 81 stands unconsumed in the slot of lug 97. -/
def committing (x : BoardState) (u : Solver) : State :=
  { (withBoard running 97 { boardIn x with request := some .first, run := 7 }).setBoard 1
      { boardIn .awaiting with request := some .resolve, lug := 98 } with
    solver := u
    runs := finishing
    trimRing := running.trimRing.set 1 ⟨.written, 81, false, 0, none, 0, 0⟩ }

/-- A board SOLVING and one AWAITING at commit, with a waiter that a shared credit serves, and with none. -/
theorem test_meets_CommitOfBoard :
    let s := committing .solving ⟨[0], none, none, [1], some ⟨0, none, 0x1FFF⟩⟩
    let t := s.commitLug 97
    let v := (committing .awaiting ⟨[2, 3, 4, 5, 6, 7], some 8, none, [0], none⟩).commitLug 97
    s.entry 97 = some ⟨97, some 0, none, false⟩ ∧ s.boards[(0 : Fin 64)].state = .solving ∧
      s.runOf s.boards[(0 : Fin 64)].run = some 1 ∧
      t.boards[(0 : Fin 64)].request = none ∧ t.boards[(0 : Fin 64)].state = .committed ∧
      t.solver = ⟨[1], none, none, [], none⟩ ∧ t.boards[(1 : Fin 64)].state = .queued ∧
      (t.stats[(12 : Fin 24)] = 1 ∧ t.stats[(15 : Fin 24)] = 1 ∧ t.stats[(19 : Fin 24)] = 1) ∧
      t.runs.slots[(1 : Fin 8)].tally.fallbacks = 1 ∧
      (shownBy t 0 = [.boardFallback 97 0 .noSolution] ∧ shownBy t 1 = [.trimOverrun 81 97]) ∧
      v.solver = ⟨[2, 3, 4, 5, 6, 7], some 8, none, [], none⟩ ∧ v.boards[(0 : Fin 64)].state = .committed := by
  decide +kernel

theorem test_meets_CommitOfEmptyLug :
    (withLug running 97 none).entry 97 = some ⟨97, none, none, false⟩ ∧
      ((withLug running 97 none).commitLug 97).trimRing[(1 : Fin 16)] = ⟨.written, 97, false, 0, none, 0, 0⟩ := by
  decide +kernel

/-- Bin 12 has alternate 13, bin 13 alternate 14 and bin 14 none; those of a list are FULL. -/
def binsFull (xs : List (Fin 41)) (alternate13 : Nat) : State :=
  { running with
    bins := xs.foldl (fun (b : Vector Bin 41) (n : Fin 41) => b.set n ⟨.full, 2, 2, 0, 2⟩) running.bins
    config := some { testConfig with alternate := (testConfig.alternate.set 11 13).set 12 alternate13 } }

theorem test_meets_BinChoice :
    (binsFull [] 14).available 12 = true ∧
    ((binsFull [12] 14).available 12 = false ∧ (binsFull [12] 14).available ((binsFull [12] 14).alternateOf 12) = true) ∧
    ((binsFull [12, 13] 14).available ((binsFull [12, 13] 14).alternateOf 12) = false ∧
      (binsFull [12, 13] 14).chooseBin 12 = (14, 2)) ∧
    (binsFull [12, 13] 12).chooseBin 12 = (0, 3) := by decide +kernel

def committedBoard : Board := { boardIn .committed with committed := some (productPlanOf none).committed }

/-- A board at sort, the last of a FINISHING run and of HELD bank B, in a state of the line; the sort record of lug 78
stands unconsumed in the slot of its lug. -/
def sorting (l : LineState) : State :=
  { withBoard (running.setLineState l) 94 { committedBoard with run := 7, bank := .b } with
    runs := finishing
    banks := ⟨.active, .held, 0, 1, some (.b, 120)⟩
    held := [⟨110, grade2⟩]
    sortRing := running.sortRing.set 14 ⟨.written, 78, false, 0, 0, 0, 0, 0⟩ }

theorem test_meets_SortOfBoard :
    let t := (sorting .run).sortLug 94
    (sorting .run).entry 94 = some ⟨94, some 0, none, false⟩ ∧ (sorting .run).runOf 7 = some 1 ∧
      t.lineState = .run ∧ t.entry 94 = none ∧ t.boards[(0 : Fin 64)].state = .free ∧ t.held = [⟨110, grade2⟩] ∧
      t.runs.slots[(1 : Fin 8)].state = .closed ∧ t.runs.slots[(1 : Fin 8)].tally.matrix[(39 : Fin 84)] = 1 ∧
      t.runs.slots[(1 : Fin 8)].tally.footage = 8000 ∧ t.stats[(20 : Fin 24)] = 1 ∧
      t.banks = ⟨.active, .spare, 0, 0, some (.b, 120)⟩ ∧
      (shownBy t 0 = [.runClosed 7 1, .bankReleased .b 94] ∧ shownBy t 1 = [.sortOverrun 78 94]) := by decide +kernel

/-- The same in DRAIN, where the sort of the last board completes the drain; and an empty lug. -/
theorem test_meets_SortInDrain :
    let t := (sorting .drain).sortLug 94
    t.lineState = .idle ∧ t.lugLine = Vector.replicate 64 none ∧ t.held = [] ∧ t.banks.pendingSwitch = none ∧
      t.stamp .stats = 1 ∧
      shownBy t 0 = [.runClosed 7 1, .bankReleased .b 94, .bankSwitched .b .dropped, .lineIdle 100] ∧
      (withLug running 94 none).entry 94 = some ⟨94, none, none, false⟩ ∧
      ((withLug running 94 none).sortLug 94).sortRing[(14 : Fin 16)] = ⟨.written, 94, false, 0, 0, 0, 0, 0⟩ := by
  decide +kernel

/-- The board of grade 3, length code 4 and width class 2 goes to bin 12, which its second piece fills. -/
def toBin12 (s : State) : State := { withBoard s 94 committedBoard with shadow := [(0x4500 + entryNumber 3 4 2, 12)] }

theorem test_meets_SortOfBoard_bins :
    let full := (toBin12 { running with bins := running.bins.set 12 ⟨.opened, 1, 2, 0, 1⟩ }).sortLug 94
    let overflowing := (toBin12 (binsFull [12, 13] 12)).sortLug 94
    full.bins[(12 : Fin 41)] = ⟨.full, 2, 2, 0, 2⟩ ∧ (shownBy full 0 ++ shownBy full 1) = [.binFull 12 2] ∧
      overflowing.stats[(21 : Fin 24)] = 1 ∧ (shownBy overflowing 0 ++ shownBy overflowing 1) = [.binOverflow 94 12] ∧
      overflowing.bins[(0 : Fin 41)].count = 1 := by decide +kernel

def boardFrame (number : Half) (present : Bool) : Frame := ⟨1, 0, 0, 0, number, present, 0, [], [], 0, 0, 0, 0, 0⟩

def closedLug : State := running.setEntry 99 (some ⟨99, none, none, true⟩)

theorem test_meets_LugWindow :
    (running.distance 32868 = 32768 ∧ running.distance 98 = running.windowW + 1 ∧ running.distance 99 = running.windowW) ∧
    (closedLug.entry 99).map LugEntry.closed = some true ∧
    (idle.distance 0 = 0 ∧ idle.running = false ∧ idle.entry 0 = none) ∧
    (running.running = true ∧ running.entry 99 = none) ∧
    ((withLug running 99 none).entry 99 = some ⟨99, none, none, false⟩ ∧ (withLug running 99 none).freeBoard = some 0) ∧
    ((withBoard running 99 (boardIn .measuring)).entry 99 = some ⟨99, some 0, none, false⟩) ∧
    (running.lugWindow 0 (boardFrame 32868 true)).2 = .droppedWrap ∧
    (running.lugWindow 0 (boardFrame 32869 true)).2 = .droppedOld ∧
    ((withLug running 99 none).lugWindow 0 (boardFrame 99 true)).2 = .taken := by decide +kernel

/-- With no run in use, and with the outfeed run of number 7, which counts the board. -/
theorem test_meets_BoardOpens :
    let s := withLug running 99 (some grade2)
    let u : State := { s with runs := { finishing with outfeed := some 1 } }
    (s.entry 99 = some ⟨99, none, some grade2, false⟩ ∧ s.freeBoard = some 0 ∧ s.runOf s.outfeedNumber = none) ∧
      (u.freeBoard = some 0 ∧ u.runOf u.outfeedNumber = some 1 ∧ u.runs.slots[(1 : Fin 8)].state ≠ .free) ∧
      (u.openBoard ⟨99, none, some grade2, false⟩ 0).runs.slots[(1 : Fin 8)].inLine = 2 ∧
      (u.openBoard ⟨99, none, some grade2, false⟩ 0).runs.slots[(1 : Fin 8)].tally.opened = 1 := by decide +kernel

theorem test_meets_SliceOffered :
    running.slicesPerLug 0 = 1 ∧ (boardFrame 99 true).index = 0 ∧
      (0 ∈ ({ boardIn .measuring with sliceSets := Vector.replicate 8 [0] } : Board).sliceSets[(0 : Fin 8)]) ∧
      0 ∉ (boardIn .measuring).sliceSets[(0 : Fin 8)] ∧
      ((withBoard running 99 (boardIn .measuring)).offerSlice 0
        { boardFrame 99 true with cells := [⟨true, 60001, 5, 6⟩] } 0).1.boards[(0 : Fin 64)].acc[(0 : Fin 48)]
          = ⟨1, 60000, 5, 6⟩ := by decide +kernel

/-- A board with defects of kinds 0 to 7 at cells 0 to 7, so that its list is full. -/
def fullOfDefects : State :=
  running.setBoard 0 { boardIn .measuring with defects := (List.range 64).map fun k => ⟨k / 8, k % 8, 1⟩ }

/-- A board with defects at cells 0 and 2. -/
def twoDefects : State := running.setBoard 0 { boardIn .measuring with defects := [⟨0, 1, 1⟩, ⟨2, 0, 1⟩] }

theorem test_meets_DefectsTaken_ordered : fullOfDefects.DefectsOrdered ∧ twoDefects.DefectsOrdered :=
  ⟨(by decide +kernel : ∀ i : Fin 64, fullOfDefects.boards[i].defects.Pairwise (fun d x => d.before x = true) ∧
      fullOfDefects.boards[i].defects.length ≤ 64),
    (by decide +kernel : ∀ i : Fin 64, twoDefects.boards[i].defects.Pairwise (fun d x => d.before x = true) ∧
      twoDefects.boards[i].defects.length ≤ 64)⟩

/-- Defect entries ignored, inserted, merged into a full list, and refused by it with one notice. -/
theorem test_meets_DefectsTaken :
    let refused := fullOfDefects.takeDefect 7 0 ⟨0, 5, 9⟩
    (twoDefects.takeDefect 0 0 ⟨8, 0, 9⟩).boards[(0 : Fin 64)].ignored = 1 ∧
      (twoDefects.takeDefect 0 0 ⟨7, 6, 9⟩).boards[(0 : Fin 64)].ignored = 1 ∧
      (twoDefects.takeDefect 0 0 ⟨7, 0, 9⟩).boards[(0 : Fin 64)].defects = [⟨0, 1, 1⟩, ⟨0, 7, 9⟩, ⟨2, 0, 1⟩] ∧
      (fullOfDefects.takeDefect 0 0 ⟨0, 5, 9⟩).boards[(0 : Fin 64)].defects[40]? = some ⟨5, 0, 9⟩ ∧
      (refused.boards[(0 : Fin 64)].overflow = true ∧ refused.boards[(0 : Fin 64)].defects.length = 64) ∧
      shownBy (refused.takeDefect 7 0 ⟨1, 5, 9⟩) 0 = [.defectOverflow 0 0] := by decide +kernel

theorem test_meets_LogOpened :
    let m := writeBytes beforeLogFrame.shadow (enabledBytes 0x180F8 trailerWrite.bytes)
    let f := readFrame m (frameBase 8 0)
    beforeLogFrame.resetLow = false ∧ beforeLogFrame.lineState = .run ∧ trailerWrite.wf = true ∧
    beforeLogFrame.offsetOf trailerWrite.addr = some (0x180F8, false) ∧ frameBase 8 0 + 0xC0 ≤ 0x180F8 ∧
    0x180F8 + trailerWrite.bytes.length ≤ frameBase 8 0 + 0x100 ∧
    covers (enabledBytes 0x180F8 trailerWrite.bytes) (frameBase 8 0 + 0xF8) 8 = true ∧
    f.formed 8 (beforeLogFrame.heads[(8 : Fin 9)].marks[(0 : Fin 16)] ||| 8) = true ∧ f.checksum = f.sum ∧
    beforeLogFrame.heads[(8 : Fin 9)].blocked = false ∧ beforeLogFrame.heads[(8 : Fin 9)].enabled = true ∧
    beforeLogFrame.heads[(8 : Fin 9)].expected = none ∧ beforeLogFrame.logUnit.openLog = none ∧ f.index = 0 ∧
    f.flag = false := by decide +kernel

def goodLogFrame : Frame := ⟨2, 8, 5, 0, 812, false, 0, [], [], 310, 300, 0x7E5A1C3B, 9, 9⟩

/-- Log 812 open with sections, in a state of the line, with the run of number 7 the infeed run and LOG_DONE routed to
ring 0. -/
def logging (l : LineState) (sections : List (Nat × Nat)) : State :=
  { (running.setLineState l).setLogUnit { running.logUnit with openLog := some ⟨812, sections, 0⟩ } with
    runs := { finishing with infeed := some 1 }
    routes := running.routes.set 11 .ring0 }

/-- A frame of log 812 with a section and an end flag. -/
def section812 (j : Nat) (ends : Bool) : Frame := { goodLogFrame with index := j, flag := ends }

/-- Sections appended, over a gap and with an end flag; dropped, of another log and already given; beyond 95; and
section 0 with a log open. -/
theorem test_meets_LogAssembly :
    let s := logging .run [(310, 300), (306, 298)]
    (s.settleGood 8 (section812 4 false)).logUnit.openLog =
        some ⟨812, [(310, 300), (306, 298), (306, 298), (306, 298), (310, 300)], 2⟩ ∧
      (s.settleGood 8 (section812 2 true)).logUnit.ring[(0 : Fin 16)].sections = 3 ∧
      ((s.settleGood 8 (section812 1 true)).stats[(2 : Fin 24)] = 1 ∧
        (s.settleGood 8 { section812 2 true with number := 813 }).stats[(2 : Fin 24)] = 1) ∧
      (s.settleGood 8 (section812 95 false)).logUnit.closeCount = 0 ∧
      (s.settleGood 8 (section812 96 false)).logUnit.ring[(0 : Fin 16)].truncated = true ∧
      ((s.settleGood 8 (section812 0 false)).logUnit.closeCount = 1 ∧
        (s.settleGood 8 (section812 0 false)).logUnit.openLog = some ⟨812, [(310, 300)], 0⟩) ∧
      ((running.setLineState .drain).settleGood 8 (section812 0 false)).stats[(6 : Fin 24)] = 1 := by decide +kernel

/-- A close in DRAIN with no board in use: the ring slot, the infeed run's tally, LOG_DONE, and the line in IDLE. -/
theorem test_meets_LogClosed :
    let t := (logging .drain [(310, 300)]).settleGood 8 (section812 0 false)
    (logging .drain [(310, 300)]).anyInUse = false ∧ t.lineState = .idle ∧ t.stats[(6 : Fin 24)] = 1 ∧
      t.logUnit.ring[(0 : Fin 16)].run = 7 ∧ t.runs.slots[(1 : Fin 8)].tally.logs = 1 ∧
      shownBy t 0 = [.logDone 812 0, .lineIdle 100] := by decide +kernel

/-- A board on lug 99 that has its slices of every head but head 0. -/
def lacksHead0 : State :=
  withBoard running 99 { boardIn .measuring with sliceSets := (Vector.replicate 8 [0]).set 0 [] }

theorem test_meets_FrameChecks :
    goodLogFrame.formed 8 7 = false ∧ (goodLogFrame.formed 8 15 = true ∧ ({ goodLogFrame with sum := 8 } : Frame).sum ≠ 9) ∧
      ({ Head.atReset with chk := true } : Head).blocked = true ∧
      (lacksHead0.boards[(0 : Fin 64)].state = .measuring ∧
        (lacksHead0.setHead 0 (Head.bump { Head.atReset with frame := true } .frameCount)).readyForClose
          lacksHead0.boards[(0 : Fin 64)] = true ∧
        lacksHead0.entry 99 = some ⟨99, some 0, none, false⟩ ∧
        (lacksHead0.settleArrival 0 3 goodLogFrame 15).boards[(0 : Fin 64)].state = .queued) ∧
      (lacksHead0.setHead 1 (Head.bump { Head.atReset with frame := true } .frameCount)).readyForClose
        lacksHead0.boards[(0 : Fin 64)] = false ∧
      ((some 6 : Option Byte).any fun e => decide (e ≠ goodLogFrame.seq)) = true ∧
      ((running.setHead 8 { Head.atReset with enabled := false, expected := some 6 }).settleArrival 8 0 goodLogFrame
        15).heads[(8 : Fin 9)].counters = #v[0, 0, 0, 0, 1, 0, 0, 1] := by decide +kernel

/-- A trailer of head 0, slot 15, that no block before it was marked for: the frame fails its form check, the head is
blocked, and the board that lacks its slice is closed; the head's record is republished once. -/
theorem test_meets_FrameArrival :
    let w : BusWrite := ⟨0x10FF8, List.replicate 8 (0, true), some true⟩
    let t := after (.frameArrival w) lacksHead0
    w.wf = true ∧ lacksHead0.offsetOf w.addr = some (0x10FF8, false) ∧ frameBase 0 15 + 0xC0 ≤ 0x10FF8 ∧
      0x10FF8 + w.bytes.length ≤ frameBase 0 15 + 0x100 ∧
      covers (enabledBytes 0x10FF8 w.bytes) (frameBase 0 15 + 0xF8) 8 = true ∧
      (t.heads[(0 : Fin 9)].frame = true ∧ t.heads[(0 : Fin 9)].marks[(15 : Fin 16)] = 0 ∧ t.stamp (.head 0) = 1) ∧
      t.boards[(0 : Fin 64)].state = .queued := by decide +kernel

theorem test_meets_ClosedLogFigures :
    (List.replicate 96 ((2000, 2000) : Nat × Nat)).length ≤ 96 ∧
      (∀ d ∈ List.replicate 96 ((2000, 2000) : Nat × Nat), d.1 ≤ 2000 ∧ d.2 ≤ 2000) ∧
      ∀ d ∈ [((0, 2000) : Nat × Nat), (2000, 0)], d.1 = 0 ∨ d.2 = 0 := by decide +kernel

theorem test_meets_SegmentFootage :
    segmentFootage (writeBytes [] [(0x40A3, 32), (0x40A9, 64)]) .a 6 12 5 = 256000 := by decide +kernel

theorem test_meets_CellAndSegmentGrades :
    cellGrade gradingBank .a [] 0 ⟨0, 0, 0, false, true, true, 0⟩ = 7 ∧
      cellGrade gradingBank .a [] 0 ⟨0, 0, 0, true, false, true, 0⟩ = 2 ∧
      cellGrade gradingBank .a [⟨31, 1, 200⟩] 31 ⟨4500, 14000, 950, true, true, true, 0⟩ = 7 := by decide +kernel

/-- A board whose 48 cells are present with grade 0. -/
def planned : Board := { boardIn .solving with cells := Vector.replicate 48 ⟨0, 0, 0, true, true, true, 0⟩ }

/-- Rules of quantity none and of each condition at a value between the boundaries; the forced grade, the overflow grade
escalated by two defects, and the width classes of a narrow cell and of no known cell. -/
theorem test_meets_SegmentEvaluation :
    let x : Cell := ⟨0, 0, 400, true, true, true, 0⟩
    let rule := fun q c => ruleFires gradingBank .a ⟨q, 3, 0, c, 0, false⟩ x
    rule 0 4 = false ∧ (List.range 8).map (rule 3) = [false, true, false, true, true, false, true, false] ∧
      defectGrade gradingBank .a ⟨0, 0, 0⟩ = 0 ∧ defectGrade gradingBank .a ⟨0, 0, 1⟩ = 7 ∧
      (planned.evaluate gradingBank (some 3) 0 1).grade = 3 ∧
      (({ planned with overflow := true } : Board).evaluate gradingBank none 11 12).grade = 5 ∧
      (({ planned with defects := [⟨0, 0, 0⟩, ⟨3, 0, 0⟩, ⟨4, 0, 0⟩] } : Board).evaluate gradingBank none 0 1).grade = 1 ∧
      ((planned.evaluate gradingBank none 0 1).wc = 0 ∧ ((boardIn .solving).evaluate gradingBank none 0 1).wc = 5) := by
  decide +kernel

theorem test_meets_CreditTaking :
    (Solver.atReset.shared.length < 6) ∧ (List.range 6).length = 6 ∧
      (Solver.take ⟨[0, 1, 2, 3, 4, 5], none, some 6, [], none⟩ .resolve 7 = none) := by decide +kernel

/-- A board at measurement close with slices of every head but head 1, one present entry in cell 12 and none in cells 0
to 5, where the solver stands as given. -/
def closing (x : Solver) : State :=
  { (withBoard running 98
      { boardIn .measuring with
        sliceSets := (Vector.replicate 8 [0]).set 1 []
        acc := (boardIn .measuring).acc.set 12 ⟨1, 4500, 14000, 20⟩ }).setBoard 1 { boardIn .awaiting with lug := 99 } with
    solver := x }

/-- The cells of a closed board: known and absent, unknown and present, known and present; and its rough length. -/
theorem test_meets_MeasurementCloses :
    let y := ((closing Solver.atReset).closeLug 98).boards[(0 : Fin 64)]
    (closing Solver.atReset).entry 98 = some ⟨98, some 0, none, false⟩ ∧
      (y.cells[(0 : Fin 48)].known = true ∧ y.cells[(0 : Fin 48)].present = false) ∧
      (y.cells[(6 : Fin 48)].known = false ∧ y.cells[(6 : Fin 48)].present = true) ∧
      y.cells[(12 : Fin 48)] = ⟨4500, 14000, 20, true, true, true, 0⟩ ∧ y.roughCells = 13 ∧
      y.state = .queued ∧ y.request = some .first := by decide +kernel

/-- The request of a close on the reserved credit and on none; an empty lug with an override, a lug closed before, and
none in the line. -/
theorem test_meets_MeasurementCloses_forms :
    let reserved := (closing ⟨[2, 3, 4, 5, 6, 7], none, none, [], none⟩).closeLug 98
    let waits := (closing ⟨[2, 3, 4, 5, 6, 7], some 8, none, [1], none⟩).closeLug 98
    let empty := (withLug running 98 (some grade2)).closeLug 98
    reserved.solver.reservedFirst = some 0 ∧ reserved.stats[(14 : Fin 24)] = 1 ∧
      (waits.boards[(0 : Fin 64)].state = .awaiting ∧ waits.solver.waiting = [0, 1] ∧ waits.stats[(13 : Fin 24)] = 1) ∧
      (empty.entry 98 = some ⟨98, none, none, true⟩ ∧
        shownBy empty 0 = [.ovrNoBoard 98 grade2]) ∧
      (closedLug.entry 99 = some ⟨99, none, none, true⟩ ∧ running.entry 99 = none) := by decide +kernel

theorem test_meets_BestCandidate : bestOf [] = none ∧ bestOf [(0, ⟨3, 6, 2, 640, 0⟩)] = some (0, ⟨3, 6, 2, 640, 0⟩) := by decide

/-- The value 40 for the segment (0, 1) at grade 0, in bank A. -/
def valueBank : List Host.Cell := [(0x410A, 40)]

/-- No candidate, one of value 0, and one of value 40, with no override and under GRADE, of the saws 0 and 1. -/
theorem test_meets_PlanOfSolve :
    ((boardIn .solving).solve [] none 3).reason = some .noCandidate ∧
      (planned.solve [] none 3).reason = some .zeroValue ∧ (planned.solve [] none 3).candidates = 1 ∧
      planned.solve valueBank none 3 = ⟨none, 0, 1, 0, 1, 5, 40, 0, .solved, none, 3, 1⟩ ∧
      planned.solve valueBank (some ⟨0, .grade 0⟩) 3 =
        ⟨none, 0, 1, 0, 1, 5, 40, 0, .override, some ⟨0, .grade 0⟩, 3, 1⟩ ∧
      (planned.solve valueBank (some ⟨0, .reman⟩) 3).reason = some .ovrReman := by decide +kernel

/-- TRIM: a valid candidate of value 40 and of value 0, and one that fails each of the conditions 2, 3 and 4. -/
theorem test_meets_PlanOfSolve_trim :
    let o : Option Override := some ⟨7, .trim 0 1⟩
    ((planned.solve valueBank o 3).reason = none ∧ (planned.solve [] o 3).reason = some .zeroValue) ∧
      (planned.invalidNotice [(0x40A0, 2)] o 1 = some (.ovrInvalid 0 7 0 1 2) ∧
        planned.invalidNotice [] o 1 = some (.ovrInvalid 0 7 0 1 3) ∧
        (boardIn .solving).invalidNotice [] o 3 = some (.ovrInvalid 0 7 0 1 4)) := by decide +kernel

theorem test_meets_SolveBegins :
    queuedBoard.solver.inFlight = none ∧ queuedBoard.boards[(0 : Fin 64)].state = .queued := by decide +kernel

def solving : State := queuedBoard.setSolver ⟨[0], none, none, [], some ⟨0, none, 0x1FFF⟩⟩

/-- A solve in flight under a TRIM override of saws 0 and 1, of which the mask has saw 0 alone. -/
def solvingTrim : State := queuedBoard.setSolver ⟨[0], none, none, [], some ⟨0, some ⟨7, .trim 0 1⟩, 1⟩⟩

theorem test_meets_SolveCompletes :
    solving.solver.inFlight = some ⟨0, none, 0x1FFF⟩ ∧ solving.solver.waiting = [] ∧
      (0 : Fin 64) ∉ solving.solver.waiting ∧
      solvingTrim.boards[(0 : Fin 64)].invalidNotice solvingTrim.shadow (some ⟨7, .trim 0 1⟩) 1 =
        some (.ovrInvalid 98 7 0 1 3) ∧
      shownBy (after .solveCompletion solvingTrim) 0 = [.ovrInvalid 98 7 0 1 3] := by decide +kernel

theorem test_meets_OverrideForFutureLug :
    running.running = true ∧ running.distance 132 = 65504 ∧ running.distance 101 = 65535 ∧
      running.heldFor 132 = none ∧ running.held.length < 8 ∧
      ({ running with held := [⟨132, grade2⟩] } : State).rankPasses 0
        (({ running with held := [⟨132, grade2⟩] } : State).heldFor 132) = true := by decide +kernel

/-- Lugs 101 to 108 with overrides held for them. -/
def heldFull : State := { running with held := (List.range 8).map fun k => ⟨BitVec.ofNat 16 (101 + k), grade2⟩ }

/-- A full table, and a held override that a station of equal rank replaces. -/
theorem test_override_held_full :
    let t := after (.overrideReman 1 108) heldFull
    (heldFull.heldFor 132 = none ∧ (after (.overrideReman 1 132) heldFull).answerAt 0x2000 =
        overrideAnswerBytes 7 0 100 0xFF) ∧
      (heldFull.heldFor 108 = some grade2 ∧ heldFull.rank 1 ≤ heldFull.rank 0) ∧
      t.heldFor 108 = some ⟨1, .reman⟩ ∧ t.held.length = 8 ∧ t.answerAt 0x2000 = overrideAnswerBytes 1 0 100 0 ∧
      shownBy t 0 = [.ovrSuperseded 108 grade2 ⟨1, .reman⟩] := by decide +kernel

theorem test_meets_OverrideOutranked :
    running.rank grade2.station < running.rank 7 ∧
      ({ running with held := [⟨101, grade2⟩] } : State).heldFor 101 = some grade2 ∧
      (running.distance 100 < running.sortS ∧ (withLug running 100 (some grade2)).entry 100 = some ⟨100, none, some grade2, false⟩) ∧
      (withBoard running 98 { boardIn .solved with override := some grade2 }).boards[(0 : Fin 64)].override = some grade2 ∧
      (after (.overrideReman 7 95) (withBoard running 95 { committedBoard with override := some grade2 })).answerAt 0x2000 =
        overrideAnswerBytes 9 6 100 0 := by
  decide +kernel

/-- A board on lug 98 in a state, with a plan of saws 0 and 4, where the solver stands as given. -/
def beforeCommit (x : BoardState) (u : Solver) : State :=
  { withBoard running 98 { boardIn x with plan := some (productPlanOf none), override := some grade2 } with solver := u }

/-- Overrides on lugs and boards before commit: an empty lug, MEASURING, SOLVING and SOLVED, on a shared credit, on the
reserved one and on none; and a CANCEL that removes nothing. -/
theorem test_meets_OverrideBeforeCommit :
    let empty := after (.overrideReman 1 98) (withLug running 98 (some grade2))
    let restarted := after (.overrideCancel 0 98) (beforeCommit .solving ⟨[0], none, none, [], some ⟨0, none, 0x1FFF⟩⟩)
    let solved := fun u => after (.overrideReman 1 98) (beforeCommit .solved u)
    let six : List (Fin 64) := [2, 3, 4, 5, 6, 7]
    ((withLug running 98 (some grade2)).rankPasses 1 (some grade2) = true ∧ running.distance 98 < running.sortS) ∧
      (empty.entry 98 = some ⟨98, none, some ⟨1, .reman⟩, false⟩ ∧ empty.answerAt 0x2000 = overrideAnswerBytes 1 0 100 0) ∧
      (after (.overrideReman 1 98) (beforeCommit .measuring Solver.atReset)).boards[(0 : Fin 64)].override =
        some ⟨1, .reman⟩ ∧
      (restarted.boards[(0 : Fin 64)].state = .queued ∧ restarted.boards[(0 : Fin 64)].override = none ∧
        restarted.solver = ⟨[0], none, none, [], none⟩ ∧ restarted.stats[(11 : Fin 24)] = 1) ∧
      ((solved ⟨[], none, none, [], none⟩).solver.shared = [0] ∧
        (solved ⟨[], none, none, [], none⟩).boards[(0 : Fin 64)].stale = some (productPlanOf none) ∧
        shownBy (solved ⟨[], none, none, [], none⟩) 0 = [.ovrSuperseded 98 grade2 ⟨1, .reman⟩]) ∧
      ((solved ⟨six, none, none, [], none⟩).solver.reservedResolve = some 0 ∧
        (solved ⟨six, none, none, [], none⟩).stats[(14 : Fin 24)] = 1) ∧
      ((solved ⟨six, none, some 8, [], none⟩).boards[(0 : Fin 64)].state = .awaiting ∧
        (solved ⟨six, none, some 8, [], none⟩).solver.waiting = [0]) ∧
      (after (.overrideCancel 0 98) (withBoard running 98 (boardIn .solved))).boards[(0 : Fin 64)].state = .solved := by
  decide +kernel

theorem test_meets_trimOrdered : trimOrdered (some (.trim 0 12)) ∧ trimOrdered (some .reman) ∧ trimOrdered none :=
  ⟨(by decide : (0 : Fin 13).val < (12 : Fin 13).val), trivial, trivial⟩

theorem test_meets_LateOverrideRevises :
    (withBoard running 95 committedBoard).distance 95 < (withBoard running 95 committedBoard).sortS ∧
      (withBoard running 95 committedBoard).boards[(0 : Fin 64)].committed = some (productPlanOf none).committed ∧
      (productPlanOf none).committed.product = true := by decide +kernel

theorem test_meets_OverrideRefusedByStage :
    (running.distance 94 = running.sortS ∧ running.entry 95 = none ∧ running.distance 32869 = 32767) ∧
      (running.distance 32868 = 32768 ∧ running.distance 133 = 65503 ∧
        (after (.overrideReman 0 133) running).answerAt 0x2000 = overrideAnswerBytes 6 0 100 0xFF) ∧
      (closedLug.entry 99 = some ⟨99, none, none, true⟩ ∧
        (after (.overrideReman 0 99) closedLug).answerAt 0x2000 = overrideAnswerBytes 8 0 100 0xFF) ∧
      (after (.overrideTrim 0 95 0 4) (withBoard running 95 committedBoard)).answerAt 0x2000 =
        overrideAnswerBytes 10 6 100 0xFF := by decide +kernel

theorem test_meets_OverrideBadField :
    (8 : Byte).toNat = 8 ∧ (7 : Byte).toNat = 7 ∧ (13 : Byte).toNat = 13 ∧ (Instr.overrideUnknownKind 0 0 0).wf = true ∧
      running.running = true ∧ idle.running = false := by decide +kernel

theorem test_meets_StartLineStarts :
    ready.lineState = .idle ∧ configCheck ready.shadow = none ∧ bankCheck ready.shadow ready.banks.active = none := by
  decide +kernel

theorem test_meets_LineCommandsRefused :
    running.lineState ≠ .idle ∧ idle.lineState ≠ .run ∧ idle.running = false ∧ configCheck idle.shadow = some (1, 0) ∧
      bankCheck goodConfig .a = some (1, 0) := by decide +kernel

theorem test_meets_DrainLineDrains :
    running.lineState = .run ∧ (withBoard running 99 (boardIn .measuring)).anyInUse = true ∧ running.anyInUse = false ∧
      running.logUnit.openLog = none ∧
      shownBy (after .drainLine { running with banks := ⟨.active, .spare, 0, 0, some (.b, 120)⟩ }) 0 =
        [.bankSwitched .b .dropped, .lineIdle 100] := by decide +kernel

def readyRunning : State := { ready with lineState := .run, config := some testConfig, lc := 100 }

theorem test_meets_BankSwitch :
    ready.banks.state (bankOf 1) = .spare ∧ ready.banks.pendingSwitch = none ∧ bankCheck ready.shadow (bankOf 1) = none ∧
      ((101 : Half) - readyRunning.lc).toNat = 1 ∧ ((355 : Half) - readyRunning.lc).toNat = 255 ∧
      ((356 : Half) - readyRunning.lc).toNat = 256 ∧ ready.banks.state (bankOf 0) = .active ∧
      bankCheck idle.shadow (bankOf 1) = some (1, 0) := by decide +kernel

/-- A BANK_SWITCH to a HELD bank, and one while a switch is pending. -/
theorem test_meets_BankSwitchRefused :
    let held : State := { readyRunning with banks := ⟨.active, .held, 0, 1, none⟩ }
    let pending : State := { readyRunning with banks := ⟨.active, .spare, 0, 0, some (.b, 120)⟩ }
    held.banks.state (bankOf 1) = .held ∧
      (after (.bankSwitch 1 110) held).answerAt 0x1000 = answerBytes 6 100 0 0 ∧
      (pending.banks.state (bankOf 1) = .spare ∧ pending.banks.pendingSwitch ≠ none) ∧
      (after (.bankSwitch 1 110) pending).answerAt 0x1000 = answerBytes 7 100 0 0 := by decide +kernel

/-- A FINISHING run with its last board in line, graded from bank B, HELD for that board. -/
def lastBoard : State :=
  { withBoard running 98 { boardIn .queued with run := 7, bank := .b } with
    runs := finishing
    banks := ⟨.active, .held, 0, 1, none⟩ }

theorem test_meets_StopLineStops :
    running.running = true ∧ (running.setLineState .drain).running = true ∧
      (lastBoard.running = true ∧ lastBoard.lossesWhere (fun b => decide (b.bank = .b)) = 1 ∧
        lastBoard.lossesWhere (fun b => decide (lastBoard.runOf b.run = some 1)) = 1 ∧ lastBoard.lastLost .b = 98) := by decide +kernel

theorem test_stop_line_losses :
    let t := after .stopLine lastBoard
    t.runs.slots[(1 : Fin 8)].state = .closed ∧ t.runs.slots[(1 : Fin 8)].tally.lost = 1 ∧
      t.banks = ⟨.active, .spare, 0, 0, none⟩ ∧
      shownBy t 0 = [.runClosed 7 1, .bankReleased .b 98, .lineIdle 100] := by decide +kernel

theorem test_meets_SawMaskSet :
    (0x1FFF : Half).toNat ≤ 0x1FFF ∧ (0x2000 : Half).toNat = 0x2000 ∧ ((0x1FFF : Half).setWidth 13 : SawSet) = idle.sawMask ∧
      idle.solver.inFlight = none ∧ (List.finRange 64).all (fun i => decide (idle.boards[i].state ≠ .solved)) = true := by
  decide +kernel

/-- A solve in flight for board 0, boards 1 to 3 SOLVED with plans of saws 0 and 4, and one shared credit free. -/
def sawLost : State :=
  let solved : Board := { boardIn .solved with plan := some (productPlanOf none) }
  { (((withBoard running 96 (boardIn .solving)).setBoard 1 { solved with lug := 97 }).setBoard 2
      { solved with lug := 99 }).setBoard 3 { solved with lug := 98 } with
    solver := ⟨[0, 4, 5, 6, 7], none, none, [], some ⟨0, none, 0x1FFF⟩⟩ }

/-- Saw 0 is disabled: the solve is restarted, and the plans are re-solved, oldest lug first, on the shared credit, on the
reserved one and on none. -/
theorem test_saw_lost :
    let t := after (.sawMask 0x1FFE) sawLost
    t.solver = ⟨[0, 4, 5, 6, 7, 1], none, some 3, [2], none⟩ ∧
      [0, 1, 3, 2].map (fun i : Fin 64 => t.boards[i].state) = [.queued, .queued, .queued, .awaiting] ∧
      (t.boards[(2 : Fin 64)].plan = none ∧ t.boards[(2 : Fin 64)].stale = some (productPlanOf none)) ∧
      (t.stats[(11 : Fin 24)] = 1 ∧ t.stats[(13 : Fin 24)] = 1 ∧ t.stats[(14 : Fin 24)] = 1) := by decide +kernel

theorem test_meets_HeadEnableSet :
    (0x1FF : Half).toNat ≤ 0x1FF ∧ (0x200 : Half).toNat = 0x200 ∧ (0x0FF : Half).getLsbD 7 = true := by decide

theorem test_meets_StatsCleared : idle.Takes .command ∧ running.Takes .command := ⟨idle_takes_command, running_takes_command⟩

theorem test_meets_RunNewOpens :
    idle.runs.slots[(0 : Fin 8)].state = .free ∧
      ({ idle with runs := { idle.runs with slots := Vector.replicate 8 ⟨.opened, 1, 0, Tally.zero⟩ } } : State).runs.freeSlot
        = none := by decide +kernel

def twoRuns : State := after .runNew (after .runNew idle)

theorem test_meets_RunAdvances :
    twoRuns.runs.outfeed = some 0 ∧ nextInQueue 0 twoRuns.runs.queue = some 1 ∧ idle.runs.outfeed = none ∧
      nextInQueue 1 twoRuns.runs.queue = none ∧ shownBy (after .runAdvance twoRuns) 0 = [.runClosed 1 0] := by
  decide +kernel

theorem test_meets_BinHold_BinEmpty : (0 : Half).toNat = 0 ∧ (40 : Half).toNat = 40 ∧ (41 : Half).toNat = 41 := by decide

theorem test_meets_NoticeRouteSet :
    (18 : Half).toNat = (17 : Fin 18).val + 1 ∧ (2 : Half).toNat ≤ 2 ∧ (19 : Half).toNat = 19 := by decide

def blockWrite : BusWrite := ⟨0x3000, [(1, true), (2, true)], true⟩

/-- A write of the command ring's producer count. -/
def countWrite (n : Nat) : BusWrite := ⟨0x1800, (leBytes 2 n).map fun x => (x, true), some true⟩

theorem test_meets_WatchedWriteCaptured :
    (idle.offsetOf blockWrite.addr = some (0x3000, false) ∧ blockWrite.wf = true ∧
      (∀ x ∈ enabledBytes 0x3000 blockWrite.bytes, idle.guardedArea x.1 = none ∧ areaOf x.1 ≠ some .frameRings) ∧
      covers (enabledBytes 0x3000 blockWrite.bytes) 0x1800 2 = false ∧
      covers (enabledBytes 0x1800 [(5, true), (0, false)]) 0x1800 2 = false) ∧
    (frameBase 8 15 + 64 * (3 : Fin 4).val ≤ 0x18FFF ∧ 0x18FFF + 1 ≤ frameBase 8 15 + 64 * ((3 : Fin 4).val + 1) ∧
      enabledBytes 0x18FFF [(1, true)] ≠ [] ∧
      covers (enabledBytes 0x18FFF [(1, true)]) (frameBase 8 15 + 0xF8) 8 = false ∧
      (after (.watchedWrite ⟨0x18FFF, [(1, true)], some true⟩) idle).heads[(8 : Fin 9)].marks[(15 : Fin 16)] = 8) ∧
    (idle.path.arenaBase = 0 * arenaSize ∧
      covers (enabledBytes 0x1800 (countWrite 65).bytes) Ring.command.countOffset 2 = true ∧
      (after (.watchedWrite (countWrite 65)) idle).stats[(23 : Fin 24)] = 1 ∧
      (after (.watchedWrite (countWrite 65)) idle).cmdRing = ⟨0, 0, none⟩ ∧
      (after (.watchedWrite (countWrite 64)) inInit).cmdRing = ⟨0, 0, some 64⟩ ∧
      (after (.watchedWrite (countWrite 0)) (after (.watchedWrite (countWrite 64)) inInit)).cmdRing = ⟨0, 0, none⟩ ∧
      (after (.watchedWrite (countWrite 0)) idle).cmdRing = ⟨0, 0, none⟩) ∧
    (idle.offsetOf 0x900000 = none ∧
      (after (.watchedWrite ⟨0x900000, [(1, true)], some false⟩) idle).path.ports =
        [.forwardWrite 0x900000 [(1, true)], .masterAnswer false []]) := by decide +kernel

/-- Three entries of an arrival, all zero in the shadow: each is answered UNKNOWN, and the count follows. -/
theorem test_three_entries_taken :
    let t := after (.watchedWrite (countWrite 3)) idle
    t.cmdRing = ⟨3, 3, none⟩ ∧ t.answerAt 0x1040 = answerBytes 10 0 0 0 ∧ t.stamp .status = 1 := by decide +kernel

/-- R148: a write that RESET_N leaves unanswered is forwarded, and no answer is given. -/
theorem test_write_unanswered :
    (after (.watchedWrite ⟨0x3000, [(1, true)], none⟩) idle).path.ports = [.forwardWrite 0x3000 [(1, true)]] := by
  decide +kernel

theorem test_meets_GuardedWriteDiscarded :
    running.offsetOf blockWrite.addr = some (0x3000, false) ∧
      enabledBytes 0x3000 blockWrite.bytes = [(0x3000, 1), (0x3001, 2)] ∧
      running.guardHit [(0x3000, 1), (0x3001, 2)] = some .configBlock := by decide +kernel

/-- The first write of a status publication is in transit. -/
def statusInTransit : State :=
  { idle with path := { idle.path with publications := [⟨.record .status, .lugTracker, 0, 1, [⟨64, []⟩, ⟨0, []⟩]⟩] } }

/-- R154: of two consuming reads of one block, slots 0 and 1 of ring 0, the one forwarded first is answered first; a read
of another block is not held back. -/
theorem test_reads_of_a_block_in_turn :
    let s := withReads noticed [headerRead 0x70000, headerRead 0x70010, headerRead 0x70200]
    let later := Instr.noticeConsumingRead (.answer (headerRead 0x70010) true [14, 0, 1, 0, 8, 0, 1, 0])
    let first := Instr.noticeConsumingRead (.answer (headerRead 0x70000) true [14, 0, 0, 0, 7, 0, 1, 0])
    (s.inTurn (headerRead 0x70000) = true ∧ s.inTurn (headerRead 0x70010) = false ∧
        s.inTurn (headerRead 0x70200) = true ∧ s.consumes (headerRead 0x70010) = true) ∧
      (after later s).path.openReads = s.path.openReads ∧
      (after later (after first s)).path.openReads = [headerRead 0x70200] := by decide +kernel

/-- R154: a guarded write of a block behind an open consuming read of it takes effect after the read's answer. -/
theorem test_guard_waits_for_read :
    let header : List Byte := [14, 0, 0, 0, 7, 0, 1, 0]
    let s := after (.guardedWrite ⟨0x70004, [(1, true)], some true⟩) (withReads noticed [headerRead 0x70000])
    let t := after (.noticeConsumingRead (.answer (headerRead 0x70000) true header)) s
    (s.path.ports = [] ∧ s.stats[(22 : Fin 24)] = 0 ∧
        s.path.waitingGuards = [⟨.guard 16 0x70004 1, [headerRead 0x70000]⟩]) ∧
      t.path.ports = [.masterAnswer true header, .masterAnswer true []] ∧ t.stats[(22 : Fin 24)] = 1 ∧
      t.path.waitingGuards = [] ∧ shownBy t 0 = [.lineIdle 7, .guard 16 0x70004 1] := by decide +kernel

theorem test_meets_ReadsPassed :
    idle.offsetOf 0x20080 = some (0x20080, false) ∧ idle.offsetOf 0x900000 = none ∧
      statusInTransit.holdsRead ⟨0x10, [true]⟩ = true ∧ statusInTransit.holdsRead ⟨0x40, [true]⟩ = false ∧
      (⟨0x10, [true]⟩ : BusRead) ∈ (withReads idle [⟨0x10, [true]⟩]).path.openReads ∧
      (⟨0x10, [true]⟩ : BusRead) ∉ idle.path.openReads ∧
      ((withReads idle [headerRead 0x70000]).inTurn (headerRead 0x70000) = true ∧
        (withReads idle [headerRead 0x70000]).consumes (headerRead 0x70000) = true ∧
        idle.consumes ⟨0x10, [true]⟩ = false) := by
  decide +kernel

theorem test_meets_HeadRecordConsumed :
    flagged.offsetOf (headerRead 0x20080).addr = some (0x20080, true) ∧
      coveredHeaders 0x20080 (headerRead 0x20080).enables [2, 1, 2, 1, 0, 0, 0, 0] = [(.head 2, [2, 1, 2, 1, 0, 0, 0, 0])] ∧
      flagged.beforeInitialWrite (.head 2) = false ∧
      headerRead 0x20080 ∈ (withReads flagged [headerRead 0x20080]).path.openReads := by decide +kernel

theorem test_meets_RunRecordConsumed :
    closedRun.offsetOf (headerRead 0x50800).addr = some (0x50800, true) ∧
      coveredHeaders 0x50800 (headerRead 0x50800).enables [7, 0, 3, 1, 0, 0, 0, 0] = [(.run 1, [7, 0, 3, 1, 0, 0, 0, 0])] := by
  decide +kernel

theorem test_meets_TrimSortRecordConsumed :
    coveredHeaders 0x40080 (headerRead 0x40080).enables [1, 0, 100, 0, 0, 0, 0, 0] = [(.trim 4, [1, 0, 100, 0, 0, 0, 0, 0])] ∧
      coveredHeaders 0x411E0 (headerRead 0x411E0).enables [1, 0, 100, 0, 0, 0, 0, 0] = [(.sort 15, [1, 0, 100, 0, 0, 0, 0, 0])] := by
  decide +kernel

/-- Ring 0 holding two notices, of sequence 0 and 1, with a read of the older one's header in its turn. -/
def twoNotices : State :=
  withReads { ((idle.raise (.lineIdle 7)).raise (.lineIdle 8)) with path := { idle.path with publications := [] } }
    [headerRead 0x70000]

/-- All hypotheses with two notices held, and ATTN left low. -/
theorem test_meets_NoticeConsumed :
    let header : List Byte := [14, 0, 0, 0, 7, 0, 1, 0]
    let t := after (.noticeConsumingRead (.answer (headerRead 0x70000) true header)) twoNotices
    twoNotices.resetLow = false ∧ headerRead 0x70000 ∈ twoNotices.path.openReads ∧
      twoNotices.inTurn (headerRead 0x70000) = true ∧
      twoNotices.offsetOf (headerRead 0x70000).addr = some (0x70000, true) ∧
      coveredHeaders 0x70000 (headerRead 0x70000).enables header = [(.notice 0 0, header)] ∧
      twoNotices.beforeInitialWrite (.notice 0 0) = false ∧ twoNotices.notices[(0 : Fin 2)].held = 2 ∧
      headerByte header 0 ≠ 0 ∧ headerHalf header 2 = twoNotices.notices[(0 : Fin 2)].next - BitVec.ofNat 16 2 ∧
      (0 : Fin 32) = noticeSlot (headerHalf header 2) ∧
      t.notices[(0 : Fin 2)].held = 1 ∧ attn t 0 = attn twoNotices 0 := by decide +kernel

/-- The same where the notice is the last one held. -/
theorem test_meets_NoticeConsumed_last :
    noticed.notices[(0 : Fin 2)].held = 1 ∧ noticed.beforeInitialWrite (.notice 0 0) = false ∧
      headerHalf [14, 0, 0, 0, 7, 0, 1, 0] 2 = noticed.notices[(0 : Fin 2)].next - 1 ∧
      (withReads noticed [headerRead 0x70000]).inTurn (headerRead 0x70000) = true := by decide +kernel

/-- R158: one read of a block of four slots hands over the two headers it returned, in ascending order. -/
theorem test_notices_of_a_block_consumed :
    let r : BusRead := ⟨0x470000, List.replicate 64 true⟩
    let data : List Byte := [14, 0, 0, 0, 7, 0, 1, 0] ++ zeroBytes 8 ++ [14, 0, 1, 0, 8, 0, 1, 0] ++ zeroBytes 40
    let t := after (.noticeConsumingRead (.answer r true data)) (withReads twoNotices [r])
    (coveredHeaders 0x70000 r.enables data).map Prod.fst = [.notice 0 0, .notice 0 1, .notice 0 2, .notice 0 3] ∧
      t.notices[(0 : Fin 2)].held = 0 := by decide +kernel

/-- The last write of a unit of the initial publication in transit, with other units to come. -/
def unitInTransit (rest : List InitUnit) : State :=
  { inInit with path := { inInit.path with
      initialRest := rest, publications := [⟨.initial (.log 0), .path, 0, 0, [⟨0x90000, []⟩]⟩] } }

theorem test_meets_InjectedWriteAnswered :
    statusInTransit.path.inTransit = [0] ∧ inTransit.path.inTransit = [0] ∧
      statusInTransit.path.publications.map (fun p => p.writes.length) = [2] ∧
      inTransit.path.publications.map (fun p => p.writes.length) = [1] ∧
      (inTransit.notices[(0 : Fin 2)].holds 0 = true ∧ inTransit.stamp (.notice 0 0) = 1) ∧
      (answerWaiting.path.inTransit = [0] ∧
        (after (.injectedWriteAnswer 0 true) answerWaiting).path.transiting.map (fun q => q.target.answerOffset) =
          [some 0x1010]) ∧
      ((unitInTransit [.log 1]).path.inTransit = [0] ∧ (unitInTransit []).path.inTransit = [0] ∧
        (after (.injectedWriteAnswer 0 true) (unitInTransit [.log 1])).path.publications.map Publication.target =
          [.initial (.log 1)] ∧
        (after (.injectedWriteAnswer 0 false) (unitInTransit [])).lineState = .idle) := by decide +kernel

/-- R156: the read held for the status block goes on after its header write, and a read held for another record stays. -/
theorem test_held_read_released :
    let s := { statusInTransit with path := { statusInTransit.path with
      publications := [⟨.record .status, .lugTracker, 0, 1, [⟨0, []⟩]⟩], heldReads := [⟨0x30000, [true]⟩, ⟨0x10, [true]⟩] } }
    let t := after (.injectedWriteAnswer 0 true) s
    t.path.heldReads = [⟨0x30000, [true]⟩] ∧ t.path.ports = [.forwardRead 0x10 [true]] ∧
      t.path.openReads = [⟨0x10, [true]⟩] := by decide +kernel

theorem test_meets_PublicationWritten : idle.path.initialRest = [] := rfl

/-- The header words and sizes of records, the status block's fields and a counter, in a running state. -/
theorem test_record_images :
    ([.status, .head 8, .board 63, .trim 15, .sort 15, .run 7, .bin 40, .notice 1 31, .notice 0 0, .stats, .log 15] :
        List Record).all (fun r =>
      decide ((inTransit.image r).take 8 = inTransit.headerWord r) && decide ((inTransit.image r).length = r.size)) = true ∧
      bytesAt (running.image .status) 0x08 3 = [1, 3, 6] ∧ bytesAt (running.image .status) 0x40 5 = [1, 0, 3, 0, 0xFF] ∧
      bytesAt ((running.bump .ringErrors).image .stats) (8 + 4 * 23) 4 = [1, 0, 0, 0] := by decide +kernel

/-- Ring 0 with a held and a lost count. -/
def ringAt (held : Nat) (lost : Half) : State := idle.setNotices 0 { NoticeRing.atReset with held := held, lost := lost }

theorem test_meets_NoticeStored :
    ((ringAt 31 0).routeNotice 0 (.lineIdle 7)).notices[(0 : Fin 2)].held = 32 ∧
      ((ringAt 30 1).routeNotice 0 (.lineIdle 7)).notices[(0 : Fin 2)].held = 32 ∧
      ((ringAt 31 1).routeNotice 0 (.lineIdle 7)).notices[(0 : Fin 2)].lost = 1 ∧
      ((ringAt 32 65535).routeNotice 0 (.lineIdle 7)).notices[(0 : Fin 2)].lost = 65535 ∧
      ((Notice.headError 0 .gap 0).code = (0 : Fin 18).val + 1 ∧ (Notice.guard 1 0 4).code = (17 : Fin 18).val + 1) ∧
      (idle.routes[(0 : Fin 18)] = .ring0 ∧ idle.routes[(7 : Fin 18)] = .ring1 ∧ idle.routes[(11 : Fin 18)] = .none) ∧
      (shownBy (idle.raise (.trimOverrun 81 97)) 1 = [.trimOverrun 81 97] ∧
        (idle.raise (.logDone 1 0)).notices = idle.notices) := by decide +kernel

theorem test_meets_invariants : step State.reset = .next State.reset ∧ State.reset.ShadowCanonical := ⟨rfl, rfl⟩

theorem test_meets_UsedBankKeepsContent : idle.banks.state .a ≠ .spare ∧ bankBase .a ≤ 0x4FFF ∧ 0x4FFF < bankBase .a + 0x1000 := by
  decide +kernel

end Sys2Proof.Tests
end

section
/-! The figures of a closed log (R54, R55): the area its volume is computed from, the bound and the zero of that volume,
and the diameters of its two ends. -/

namespace Sys2Proof.Machine

/-- The sum A of R54, over all entries of the sections list. -/
def OpenLog.area (x : OpenLog) : Nat := (x.sections.map fun d => d.1 * d.2).sum

theorem OpenLog.volume_eq_of_area (x : OpenLog) :
    x.volume = (x.area * 51472 * 250 / 65536 + 500000) / 1000000 := by
  have hfold : x.sections.foldl (fun a d => a + d.1 * d.2) 0 = x.area := by
    rw [OpenLog.area, List.sum_eq_foldl, List.foldl_map]
  rw [OpenLog.volume, hfold]

/-- The area of the largest log: 96 entries of 2000 × 2000 mm. -/
theorem OpenLog.area_le_of_sections_le {x : OpenLog} (hlen : x.sections.length ≤ 96)
    (hd : ∀ d ∈ x.sections, d.1 ≤ 2000 ∧ d.2 ≤ 2000) : x.area ≤ 384000000 := by
  have hentry : ∀ n ∈ x.sections.map (fun d => d.1 * d.2), n ≤ 2000 * 2000 := by
    intro n hn
    obtain ⟨d, hmem, rfl⟩ := List.mem_map.mp hn
    obtain ⟨hx, hy⟩ := hd d hmem
    exact Nat.mul_le_mul hx hy
  have hsum := List.sum_le_card_nsmul _ _ hentry
  rw [List.length_map, smul_eq_mul] at hsum
  unfold OpenLog.area
  omega

theorem OpenLog.area_eq_zero_of_flat {x : OpenLog} (hd : ∀ d ∈ x.sections, d.1 = 0 ∨ d.2 = 0) : x.area = 0 := by
  refine List.sum_eq_zero fun n hn => ?_
  obtain ⟨d, hmem, rfl⟩ := List.mem_map.mp hn
  exact Nat.mul_eq_zero.mpr (hd d hmem)

theorem endDiameter_le {d : Nat × Nat} {m : Nat} (hx : d.1 ≤ m) (hy : d.2 ≤ m) : endDiameter d ≤ m := by
  unfold endDiameter
  omega

theorem OpenLog.record_ends (x : OpenLog) (seq run : Half) (trunc : Bool) (h : x.sections ≠ []) :
    (x.record seq run trunc).smallEnd =
        min (endDiameter (x.sections.head h)) (endDiameter (x.sections.getLast h)) ∧
      (x.record seq run trunc).largeEnd =
        max (endDiameter (x.sections.head h)) (endDiameter (x.sections.getLast h)) := by
  have hfirst : x.sections.headD (0, 0) = x.sections.head h := by
    rw [List.headD_eq_head?_getD, List.head?_eq_some_head h, Option.getD_some]
  have hlast : x.sections.getLastD (0, 0) = x.sections.getLast h := by
    rw [List.getLastD_eq_getLast?, List.getLast?_eq_some_getLast h, Option.getD_some]
  simp only [OpenLog.record, hfirst, hlast, and_self]

theorem OpenLog.record_ends_eq_of_single (number seq run : Half) (d : Nat × Nat) (k : Nat) (trunc : Bool) :
    (OpenLog.record ⟨number, [d], k⟩ seq run trunc).smallEnd =
      (OpenLog.record ⟨number, [d], k⟩ seq run trunc).largeEnd := by
  obtain ⟨hsmall, hlarge⟩ := OpenLog.record_ends ⟨number, [d], k⟩ seq run trunc (List.cons_ne_nil d [])
  rw [hsmall, hlarge]
  exact (min_self _).trans (max_self _).symm

theorem OpenLog.record_largeEnd_le (x : OpenLog) (seq run : Half) (trunc : Bool) (h : x.sections ≠ [])
    (hd : ∀ d ∈ x.sections, d.1 ≤ 2000 ∧ d.2 ≤ 2000) : (x.record seq run trunc).largeEnd ≤ 2000 := by
  obtain ⟨-, hlarge⟩ := x.record_ends seq run trunc h
  obtain ⟨hfx, hfy⟩ := hd _ (List.head_mem h)
  obtain ⟨hlx, hly⟩ := hd _ (List.getLast_mem h)
  rw [hlarge]
  exact max_le (endDiameter_le hfx hfy) (endDiameter_le hlx hly)

end Sys2Proof.Machine

namespace Sys2Proof.Proofs

open Sys2Proof.Machine

/-- Settles O18: the volume by the area of the sections list, the end diameters by the list's first and last entries. -/
theorem closedLogFigures : Obligations.ClosedLogFigures := by
  refine ⟨OpenLog.volume_eq_of_area, fun x hlen hd => ?largest, fun x hd => ?flat,
    fun number seq run first rest k trunc => ?ends⟩
  case largest =>
    have harea := OpenLog.area_le_of_sections_le hlen hd
    rw [x.volume_eq_of_area]
    omega
  case flat => rw [x.volume_eq_of_area, OpenLog.area_eq_zero_of_flat hd]
  case ends =>
    have hne : first :: rest ≠ [] := List.cons_ne_nil first rest
    obtain ⟨hsmall, hlarge⟩ := OpenLog.record_ends ⟨number, first :: rest, k⟩ seq run trunc hne
    refine ⟨hsmall, hlarge, ?single, OpenLog.record_largeEnd_le ⟨number, first :: rest, k⟩ seq run trunc hne⟩
    case single =>
      rintro rfl
      exact OpenLog.record_ends_eq_of_single number seq run first k trunc

end Sys2Proof.Proofs
end

section
/-! The footage of a segment (R77): its value for a product grade and for none, and the bound of the ranges of R64. -/

namespace Sys2Proof.Machine

theorem segmentFootage_of_product {m : List Host.Cell} {k : BankId} {g lc wc : Nat} (hg : g ≤ 6) :
    segmentFootage m k g lc wc = (bankThickness m k * bankWidth m k wc * 2 * lc * 125 + 12) / 24 :=
  if_pos hg

theorem segmentFootage_of_noProduct {m : List Host.Cell} {k : BankId} {g lc wc : Nat} (hg : 6 < g) :
    segmentFootage m k g lc wc = 0 :=
  if_neg (Nat.not_le.mpr hg)

/-- The largest segment: 32 × 64 quarter-inches over 24 ft. -/
theorem segmentFootage_le {m : List Host.Cell} {k : BankId} {g lc wc : Nat} (ht : bankThickness m k ≤ 32)
    (hw : bankWidth m k wc ≤ 64) (hlc : lc ≤ 12) : segmentFootage m k g lc wc ≤ 256000 := by
  obtain hg | hg := Nat.lt_or_ge 6 g
  · rw [segmentFootage_of_noProduct hg]
    exact Nat.zero_le _
  · have hsize : bankThickness m k * bankWidth m k wc * 2 * lc ≤ 32 * 64 * 2 * 12 := by gcongr
    rw [segmentFootage_of_product hg]
    omega

end Sys2Proof.Machine

namespace Sys2Proof.Proofs

open Sys2Proof.Machine

/-- Settles O19: the footage by whether the grade is a product grade, and its bound by that of the nominal size. -/
theorem segmentFootage : Obligations.SegmentFootage := fun _ _ _ _ _ =>
  ⟨segmentFootage_of_product, fun hg => segmentFootage_of_noProduct (by omega), segmentFootage_le⟩

end Sys2Proof.Proofs
end

section
/-! What a command given out of INIT comes to, once it is known what the command unit does with it in the state in which
it takes the entry (R160, R166): the answer, the frame and the records republished. -/

namespace Sys2Proof.Machine

/-- The state in which the command unit takes an entry that a row of the table gives (log entry 8). -/
def State.offered (s : State) (x : CommandEntry) : State := s.beginEvent.announced .command x.bytes

/-- The state after the row that gives an entry. -/
def State.given (s : State) (x : CommandEntry) : State := s.beginEvent.giveCommand x.code x.arg1 x.arg2

theorem State.Takes.beginEvent {s : State} {ring : Ring} (h : s.Takes ring) : s.beginEvent.Takes ring :=
  ⟨h.released, h.outOfInit, by cases ring <;> exact h.nonePending, h.published, h.canonical⟩

/-- Whether an entry was answered is read without the number of the event and the ports. -/
theorem Answered.of_beginEvent {s t : State} {answer : List Byte} (h : Answered s.beginEvent t .command answer) :
    Answered s t .command answer :=
  ⟨h.answer, h.counts, h.shadow⟩

theorem offered_only (s : State) (x : CommandEntry) :
    OnlyChanges [.cmdRing, .shadow, .event, .ports] s (s.offered x) :=
  have hbegin : OnlyChanges [.event, .ports] s s.beginEvent := (beginEvent_frame (by simp)).mpr (OnlyChanges.refl _ _)
  (hbegin.mono (by simp)).trans ((announced_command_frame _ _).mono (by simp))

@[simp] theorem offered_bins (s : State) (x : CommandEntry) : (s.offered x).bins = s.bins :=
  offered_only s x .bins (by simp)

@[simp] theorem offered_initialRest (s : State) (x : CommandEntry) :
    (s.offered x).path.initialRest = s.path.initialRest :=
  offered_only s x .initialRest (by simp)

theorem offered_stamp (s : State) (x : CommandEntry) (r : Record) : (s.offered x).stamp r = s.stamp r :=
  (offered_only s x).stamp (by simp) r

variable {s u : State} {x : CommandEntry} {a : CommandAnswer}

theorem given_answered (h : s.Takes .command) (hdo : (s.offered x).doCommand x.command = (u, a)) :
    Answered s (s.given x) .command (a.bytes s.lc) := by
  have ht : Answered s.beginEvent (s.given x) .command (((s.offered x).doCommand x.command).2.bytes s.lc) :=
    giveCommand_answered s.beginEvent h.beginEvent x.code x.arg1 x.arg2
  rw [hdo] at ht
  exact ht.of_beginEvent

theorem given_effect (h : s.Takes .command) (hdo : (s.offered x).doCommand x.command = (u, a)) :
    OnlyChanges [.cmdRing, .shadow, .stamps, .publications] u (s.given x) := by
  have ht : OnlyChanges _ ((s.offered x).doCommand x.command).1 (s.given x) :=
    giveCommand_effect s.beginEvent h.beginEvent x.code x.arg1 x.arg2
  rwa [hdo] at ht

/-- R160: the taking of the entry republishes the status block, after what the command itself republished. -/
theorem given_stamp (h : s.Takes .command) (hdo : (s.offered x).doCommand x.command = (u, a)) (r : Record) :
    (s.given x).stamp r = if r = .status then u.stamp r + 1 else u.stamp r := by
  have hrest : u.path.initialRest = [] := by
    have hframe : OnlyChanges _ (s.offered x) ((s.offered x).doCommand x.command).1 :=
      (doCommand_frame x.command fun _ hf => hf).mpr (OnlyChanges.refl _ _)
    rw [hdo] at hframe
    have hsame : u.path.initialRest = (s.offered x).path.initialRest := hframe .initialRest (by simp)
    rw [hsame, offered_initialRest, h.published]
  obtain ⟨v, hv, hgiven⟩ : ∃ v, OnlyChanges [.cmdRing, .shadow, .publications] u v ∧
      s.given x = v.publish .command .status := by
    refine ⟨_, ?_, giveCommand_taken s.beginEvent h.beginEvent x.code x.arg1 x.arg2⟩
    change OnlyChanges _ u (State.setCounts ((s.offered x).takeCommand _ x) .command _)
    simp [setCounts_command_frame, State.takeCommand, hdo]
  have hvrest : v.path.initialRest = u.path.initialRest := hv .initialRest (by simp)
  rw [hgiven, stamp_publish, hv.stamp (by simp)]
  simp [hvrest, hrest]

/-- A command that changes nothing where it is taken leaves its answer and the traces of its taking. -/
theorem given_of_unchanged (h : s.Takes .command) (hdo : (s.offered x).doCommand x.command = (s.offered x, a)) :
    Answered s (s.given x) .command (a.bytes s.lc) ∧ Republishes [.status] s (s.given x) ∧
      OnlyChanges commandTraces s (s.given x) := by
  refine ⟨given_answered h hdo, fun r => ?_, ?_⟩
  · rw [given_stamp h hdo, offered_stamp]
    simp
  · exact ((offered_only s x).mono (by simp [commandTraces])).trans
      ((given_effect h hdo).mono (by simp [commandTraces]))

/-- A command that writes one bin and publishes its record leaves that bin changed, beside the traces of its taking. -/
theorem given_of_binWritten {n : Fin 41} {y : Bin} (h : s.Takes .command)
    (hdo : (s.offered x).doCommand x.command = (((s.offered x).setBin n y).publish .output (.bin n), a)) :
    (s.given x).bins = s.bins.set n y ∧ Answered s (s.given x) .command (a.bytes s.lc) ∧
      Republishes [.bin n, .status] s (s.given x) ∧ OnlyChanges (.bins :: commandTraces) s (s.given x) := by
  refine ⟨?bins, given_answered h hdo, fun r => ?stamps, ?frame⟩
  case bins =>
    have hbins : (s.given x).bins = _ := given_effect h hdo .bins (by simp)
    rw [hbins, publish_bins, State.setBin_bins, offered_bins]
  case stamps =>
    have hset : ((s.offered x).setBin n y).stamp r = s.stamp r := offered_stamp s x r
    rw [given_stamp h hdo, stamp_publish, hset]
    by_cases hstatus : r = .status
    · simp [hstatus]
    · simp [hstatus, h.published]
  case frame =>
    have hwrite : OnlyChanges [.bins, .stamps, .publications] (s.offered x)
        (((s.offered x).setBin n y).publish .output (.bin n)) := by simp
    exact (((offered_only s x).mono (by simp [commandTraces])).trans (hwrite.mono (by simp [commandTraces]))).trans
      ((given_effect h hdo).mono (by simp [commandTraces]))

end Sys2Proof.Machine
end

section
/-! BIN_HOLD and BIN_EMPTY (R133, R134): what each answers and does, case by case. -/

namespace Sys2Proof.Machine

/-- R128: of the bins but bin 0, only one that is OPEN is available. -/
theorem available_eq_false_of_not_opened {s : State} {n : Fin 41} (h0 : n ≠ 0) (hopen : s.bins[n].state ≠ .opened) :
    s.available n = false := by
  simp only [State.available, decide_eq_false h0, decide_eq_false hopen, Bool.or_self]

variable {s : State} {arg : Half} {n : Fin 41}

theorem binHold_of_outOfRange (h : arg.toNat = 0 ∨ 40 < arg.toNat) : s.binHold arg = (s, plainAnswer .range) :=
  dif_neg (by omega)

theorem binHold_of_inRange (hn : n.val = arg.toNat) (h1 : 1 ≤ n.val) :
    s.binHold arg =
      if s.bins[n].state = .hold then (s, plainAnswer .ok)
      else ((s.setBin n { s.bins[n] with state := .hold }).publish .output (.bin n), plainAnswer .ok) := by
  have hbin : ⟨arg.toNat, hn ▸ n.isLt⟩ = n := Fin.ext hn.symm
  have hrange : 1 ≤ arg.toNat ∧ arg.toNat ≤ 40 := by omega
  simp only [State.binHold, dif_pos hrange, hbin]

theorem binEmpty_of_outOfRange (h : 40 < arg.toNat) : s.binEmpty arg = (s, plainAnswer .range) :=
  dif_neg (by omega)

theorem binEmpty_of_inRange (hn : n.val = arg.toNat) :
    s.binEmpty arg =
      ((s.setBin n { s.bins[n] with count := 0, state := .opened }).publish .output (.bin n), plainAnswer .ok) := by
  have hbin : ⟨arg.toNat, hn ▸ n.isLt⟩ = n := Fin.ext hn.symm
  have hrange : arg.toNat ≤ 40 := by omega
  simp only [State.binEmpty, dif_pos hrange, hbin]

/-- A bin that is HOLD already stands as BIN_HOLD would leave it. -/
theorem bins_set_hold_eq_self (hhold : s.bins[n].state = .hold) :
    s.bins.set n { s.bins[n] with state := .hold } = s.bins := by
  rw [← hhold]
  exact Vector.set_getElem_self n.isLt

/-- The entry that BIN_HOLD gives (Table 10-2). -/
def binHoldEntry (bin : Half) : CommandEntry := ⟨9, bin, 0⟩

/-- The entry that BIN_EMPTY gives (Table 10-2). -/
def binEmptyEntry (bin : Half) : CommandEntry := ⟨10, bin, 0⟩

theorem exec_binHold (s : State) (bin : Half) : exec (.binHold bin) s = .next (s.given (binHoldEntry bin)) := rfl

theorem exec_binEmpty (s : State) (bin : Half) : exec (.binEmpty bin) s = .next (s.given (binEmptyEntry bin)) := rfl

theorem doCommand_binHoldEntry (s : State) (bin : Half) :
    s.doCommand (binHoldEntry bin).command = s.binHold bin := rfl

theorem doCommand_binEmptyEntry (s : State) (bin : Half) :
    s.doCommand (binEmptyEntry bin).command = s.binEmpty bin := rfl

end Sys2Proof.Machine

namespace Sys2Proof.Proofs

open Sys2Proof.Machine

/-- Settles O41: by the argument's range, and in range by whether the bin is HOLD already. -/
theorem binHold : Obligations.BinHold := by
  refine ⟨fun s n h0 hstate => available_eq_false_of_not_opened h0 (?closed : s.bins[n].state ≠ .opened),
    fun s bin htakes => ⟨fun hrange => ⟨_, exec_binHold s bin, ?range⟩, fun n hn h1 => ⟨_, exec_binHold s bin, ?ok⟩⟩⟩
  case closed => rcases hstate with hstate | hstate <;> rw [hstate] <;> decide
  case range => exact given_of_unchanged (x := binHoldEntry bin) htakes (binHold_of_outOfRange hrange)
  case ok =>
    have hdo := binHold_of_inRange (s := s.offered (binHoldEntry bin)) hn h1
    rw [← doCommand_binHoldEntry, offered_bins] at hdo
    by_cases hhold : s.bins[n].state = .hold
    · rw [if_pos hhold] at hdo ⊢
      obtain ⟨hanswer, hstamps, hframe⟩ := given_of_unchanged htakes hdo
      refine ⟨?_, hanswer, hstamps, hframe.mono fun f hf => List.mem_cons_of_mem _ hf⟩
      rw [bins_set_hold_eq_self hhold]
      exact hframe .bins (by simp [commandTraces])
    · rw [if_neg hhold] at hdo ⊢
      exact given_of_binWritten htakes hdo

/-- Settles O42: by the argument's range. -/
theorem binEmpty : Obligations.BinEmpty := by
  intro s bin htakes
  refine ⟨fun hrange => ⟨_, exec_binEmpty s bin, ?range⟩, fun n hn => ⟨_, exec_binEmpty s bin, ?ok⟩⟩
  case range =>
    obtain ⟨hanswer, -, hframe⟩ :=
      given_of_unchanged (x := binEmptyEntry bin) htakes (binEmpty_of_outOfRange hrange)
    exact ⟨hanswer, hframe⟩
  case ok =>
    have hdo := binEmpty_of_inRange (s := s.offered (binEmptyEntry bin)) hn
    rw [← doCommand_binEmptyEntry, offered_bins] at hdo
    exact given_of_binWritten htakes hdo

end Sys2Proof.Proofs
end

section
/-! The recovery of a run tally (R142): its value where it is recomputed, and the events that leave it as it is. -/

namespace Sys2Proof.Machine

theorem recomputed_recovery_of_noLitres {t : Tally} (h : t.litres = 0) : t.recomputed.recovery = 0 := if_pos h

/-- The bound of R142 is what lets the quotient be held in 16 bits. -/
theorem recomputed_recovery_of_litres {t : Tally} (h : t.litres ≠ 0) :
    t.recomputed.recovery.toNat = min 65535 (t.footage.toNat / t.litres.toNat) := by
  have hrecovery : t.recomputed.recovery = BitVec.ofNat 16 (min 65535 (t.footage.toNat / t.litres.toNat)) := if_neg h
  have hbound : min 65535 (t.footage.toNat / t.litres.toNat) < 2 ^ 16 := by omega
  rw [hrecovery, BitVec.toNat_ofNat, Nat.mod_eq_of_lt hbound]

@[simp] theorem recomputed_litres (t : Tally) : t.recomputed.litres = t.litres := rfl

@[simp] theorem recomputed_footage (t : Tally) : t.recomputed.footage = t.footage := rfl

/-- R142: a log close and a sort recompute the recovery last, from the totals that they leave. -/
theorem eq_recomputed_of_log_or_sort {x y : Tally} {g lc v f : Nat} (h : y ∈ [x.addLog v, x.addSorted g lc v f]) :
    ∃ totals : Tally, y = totals.recomputed := by
  rcases List.mem_pair.mp h with hlog | hsort
  · exact ⟨_, hlog⟩
  · exact ⟨_, hsort⟩

@[simp] theorem addOpened_recovery (x : RunSlot) : x.addOpened.tally.recovery = x.tally.recovery := rfl

@[simp] theorem addLost_recovery (x : RunSlot) : x.addLost.tally.recovery = x.tally.recovery := rfl

@[simp] theorem addFallback_recovery (x : RunSlot) : x.addFallback.tally.recovery = x.tally.recovery := rfl

/-- R60: closing a run writes its state alone. -/
theorem settleRun_runs_of_closes {s : State} {r : Fin 8} (h : s.runs.slots[r].closes = true) :
    (s.settleRun r).runs =
      { s.runs with slots := s.runs.slots.set r { s.runs.slots[r] with state := .closed } } := by
  have hsettle : s.settleRun r =
      ((s.setRun r { s.runs.slots[r] with state := .closed }).publish .tally (.run r)).raise
        (.runClosed s.runs.slots[r].number r.val) := if_pos h
  rw [hsettle, raise_runs, publish_runs, State.setRun_runs]

theorem settleRun_runs_of_not_closes {s : State} {r : Fin 8} (h : ¬ s.runs.slots[r].closes = true) :
    (s.settleRun r).runs = s.runs := by
  have hsettle : s.settleRun r = s.publish .tally (.run r) := if_neg h
  rw [hsettle, publish_runs]

theorem settleRun_tally (s : State) (r : Fin 8) : (s.settleRun r).runs.slots[r].tally = s.runs.slots[r].tally := by
  by_cases hcloses : s.runs.slots[r].closes = true
  · simp [settleRun_runs_of_closes hcloses]
  · rw [settleRun_runs_of_not_closes hcloses]

end Sys2Proof.Machine

namespace Sys2Proof.Proofs

open Sys2Proof.Machine

/-- Settles O56: a log close and a sort both end by recomputing, which is by whether there are litres; the other events
write other fields. -/
theorem recovery : Obligations.Recovery := by
  refine ⟨fun x => ⟨addOpened_recovery x, addLost_recovery x, addFallback_recovery x⟩, settleRun_tally, ?recomputed⟩
  case recomputed =>
    intro x g lc v f y hy
    obtain ⟨totals, rfl⟩ := eq_recomputed_of_log_or_sort hy
    rw [recomputed_litres, recomputed_footage]
    exact ⟨recomputed_recovery_of_noLitres, recomputed_recovery_of_litres⟩

end Sys2Proof.Proofs
end

section
/-! NOTICE_ROUTE (R180): the table entry and the route that its arguments name, and what it answers and
changes. -/

namespace Sys2Proof.Machine

/-- Table 11-1: the kinds are coded from 1, the entries of the route table counted from 0. -/
theorem routeIndex_of_eq_succ {code : Nat} {k : Fin 18} (h : code = k.val + 1) : routeIndex code = k := by
  rw [routeIndex, h, Nat.add_sub_cancel, Fin.ofNat_val_eq_self]

theorem routeOf_eq (arg : Half) :
    routeOf arg = if arg.toNat = 0 then .ring0 else if arg.toNat = 1 then .ring1 else .none := by
  unfold routeOf
  split
  case h_1 h0 => rw [if_pos h0]
  case h_2 h1 => rw [if_neg (by omega), if_pos h1]
  case h_3 h0 h1 => rw [if_neg h0, if_neg h1]

variable {s : State} {x : CommandEntry} {kind route : Half} {k : Fin 18}

theorem noticeRoute_of_outOfRange (h : kind.toNat = 0 ∨ 18 < kind.toNat ∨ 2 < route.toNat) :
    s.noticeRoute kind route = (s, plainAnswer .range) :=
  if_neg (by omega)

theorem noticeRoute_of_inRange (hk : kind.toNat = k.val + 1) (hroute : route.toNat ≤ 2) :
    s.noticeRoute kind route = ({ s with routes := s.routes.set k (routeOf route) }, plainAnswer .ok) := by
  have hrange : 1 ≤ kind.toNat ∧ kind.toNat ≤ 18 ∧ route.toNat ≤ 2 := by omega
  simp only [State.noticeRoute, if_pos hrange, routeIndex_of_eq_succ hk]

@[simp] theorem offered_routes (s : State) (x : CommandEntry) : (s.offered x).routes = s.routes :=
  offered_only s x .routes (by simp)

/-- A taken entry changes what its command changes where it is taken, beside the traces of its taking. -/
theorem given_frame {T : List Field} (h : s.Takes .command)
    (hdo : OnlyChanges T (s.offered x) ((s.offered x).doCommand x.command).1) :
    OnlyChanges (T ++ commandTraces) s (s.given x) :=
  (((offered_only s x).mono (by simp [commandTraces])).trans (hdo.mono fun _ hf => List.mem_append_left _ hf)).trans
    ((given_effect h rfl).mono (by simp [commandTraces]))

/-- The entry that NOTICE_ROUTE gives (Table 10-2). -/
def noticeRouteEntry (kind route : Half) : CommandEntry := ⟨11, kind, route⟩

theorem exec_noticeRoute (s : State) (kind route : Half) :
    exec (.noticeRoute kind route) s = .next (s.given (noticeRouteEntry kind route)) := rfl

theorem doCommand_noticeRouteEntry (s : State) (kind route : Half) :
    s.doCommand (noticeRouteEntry kind route).command = s.noticeRoute kind route := rfl

theorem given_noticeRoute_frame (h : s.Takes .command) (kind route : Half) :
    OnlyChanges (.routes :: commandTraces) s (s.given (noticeRouteEntry kind route)) :=
  given_frame (T := [.routes]) h (by simp [doCommand_noticeRouteEntry])

end Sys2Proof.Machine

namespace Sys2Proof.Proofs

open Sys2Proof.Machine

/-- Settles O43: by the range of the two arguments. -/
theorem noticeRouteSet : Obligations.NoticeRouteSet := by
  intro s kind route htakes
  refine ⟨fun hrange => ⟨_, exec_noticeRoute s kind route, ?range⟩,
    fun k hk hroute => ⟨_, exec_noticeRoute s kind route, ?ok⟩⟩
  case range =>
    obtain ⟨hanswer, -, hframe⟩ :=
      given_of_unchanged (x := noticeRouteEntry kind route) htakes (noticeRoute_of_outOfRange hrange)
    exact ⟨hanswer, hframe⟩
  case ok =>
    have hdo := noticeRoute_of_inRange (s := s.offered (noticeRouteEntry kind route)) hk hroute
    rw [← doCommand_noticeRouteEntry, offered_routes, routeOf_eq] at hdo
    exact ⟨given_effect htakes hdo .routes (by simp), given_answered htakes hdo,
      given_noticeRoute_frame htakes kind route⟩

end Sys2Proof.Proofs
end

section
/-! What every operation of the part keeps: the invariants of the state, and the shadow bytes above the two rings. One
lemma an operation, each read off its definition. -/

namespace Sys2Proof.Machine

/-- R8: an entry that the line shows for a lug is that lug's. -/
theorem entry_lug {t : State} {n : Half} {e : LugEntry} (h : t.entry n = some e) : e.lug = n := by
  unfold State.entry at h
  split at h
  · split at h
    · cases h
      assumption
    · cases h
  · cases h

theorem Defect.before_trans {x y z : Defect} (hxy : x.before y = true) (hyz : y.before z = true) : x.before z = true := by
  simp only [Defect.before, Bool.or_eq_true, Bool.and_eq_true, decide_eq_true_eq] at hxy hyz ⊢
  omega

/-- R39: a defect merged into an ordered list stands after all that stood before it. -/
theorem mem_mergeDefect {d x : Defect} {xs : List Defect} (h : x ∈ mergeDefect d xs) :
    ∃ y ∈ d :: xs, x.cell = y.cell ∧ x.kind = y.kind := by
  induction xs with
  | nil => exact ⟨x, h, rfl, rfl⟩
  | cons y ys ih =>
    unfold mergeDefect at h
    split at h
    · rcases List.mem_cons.mp h with rfl | h
      · exact ⟨y, by simp, rfl, rfl⟩
      · exact ⟨x, by simp [h], rfl, rfl⟩
    · split at h
      · exact ⟨x, h, rfl, rfl⟩
      · rcases List.mem_cons.mp h with rfl | h
        · exact ⟨x, by simp, rfl, rfl⟩
        · obtain ⟨z, hz, hsame⟩ := ih h
          exact ⟨z, by simp only [List.mem_cons] at hz ⊢; tauto, hsame⟩

/-- R39: the order of a defect list looks at cells and kinds alone. -/
theorem Defect.before_congr {w x y z : Defect} (hw : w.cell = x.cell ∧ w.kind = x.kind)
    (hy : y.cell = z.cell ∧ y.kind = z.kind) : w.before y = x.before z := by
  simp only [Defect.before, hw.1, hw.2, hy.1, hy.2]

/-- R39: merging keeps a defect list in its order. -/
theorem mergeDefect_pairwise (d : Defect) {xs : List Defect} (h : xs.Pairwise fun d x => d.before x = true) :
    (mergeDefect d xs).Pairwise fun d x => d.before x = true := by
  induction xs with
  | nil => exact List.pairwise_singleton _ _
  | cons y ys ih =>
    obtain ⟨hy, hys⟩ := List.pairwise_cons.mp h
    unfold mergeDefect
    split
    case isTrue => exact List.pairwise_cons.mpr ⟨fun z hz => hy z hz, hys⟩
    case isFalse hplace =>
      split
      case isTrue hbefore =>
        refine List.pairwise_cons.mpr ⟨fun z hz => ?_, h⟩
        rcases List.mem_cons.mp hz with rfl | hz
        · exact hbefore
        · exact Defect.before_trans hbefore (hy z hz)
      case isFalse hafter =>
        have hyd : y.before d = true := by
          simp only [Defect.samePlace, Defect.before, Bool.or_eq_true, Bool.and_eq_true, decide_eq_true_eq] at hplace hafter ⊢
          omega
        refine List.pairwise_cons.mpr ⟨fun z hz => ?_, ih hys⟩
        obtain ⟨w, hw, hsame⟩ := mem_mergeDefect hz
        rw [Defect.before_congr ⟨rfl, rfl⟩ hsame]
        rcases List.mem_cons.mp hw with rfl | hw
        · exact hyd
        · exact hy w hw

/-- R39: merging makes the list longer only by a defect whose cell and kind it does not list. -/
theorem mergeDefect_length (d : Defect) {xs : List Defect} (h : xs.Pairwise fun d x => d.before x = true) :
    (mergeDefect d xs).length = if xs.any d.samePlace then xs.length else xs.length + 1 := by
  induction xs with
  | nil => rfl
  | cons y ys ih =>
    obtain ⟨hy, hys⟩ := List.pairwise_cons.mp h
    unfold mergeDefect
    split
    case isTrue hplace => simp [hplace]
    case isFalse hplace =>
      split
      case isTrue hbefore =>
        have hnone : ys.any d.samePlace = false := by
          refine List.any_eq_false.mpr fun z hz => ?_
          have hdz := Defect.before_trans hbefore (hy z hz)
          simp only [Defect.samePlace, Defect.before, Bool.or_eq_true, Bool.and_eq_true, decide_eq_true_eq] at hdz ⊢
          omega
        simp [hplace, hnone]
      case isFalse =>
        rw [List.length_cons, ih hys, List.any_cons, Bool.eq_false_iff.mpr hplace, Bool.false_or, List.length_cons]
        split <;> rfl

theorem mergeDefect_length_le {d : Defect} {xs : List Defect} (h : xs.Pairwise fun d x => d.before x = true)
    (hle : xs.length ≤ 64) (hroom : (xs.any d.samePlace || decide (xs.length < 64)) = true) :
    (mergeDefect d xs).length ≤ 64 := by
  rw [mergeDefect_length d h]
  split
  · exact hle
  · simp_all

theorem commandAnswer_length (x : CommandAnswer) (lc : Half) : (x.bytes lc).length = 8 := by
  simp [CommandAnswer.bytes]

theorem overrideAnswer_length (x : OverrideAnswer) (lc : Half) : (x.bytes lc).length = 8 := by
  simp [OverrideAnswer.bytes]

theorem insertHeld_length (s : State) (x : HeldOverride) (ys : List HeldOverride) :
    (s.insertHeld x ys).length = ys.length + 1 := by
  induction ys with
  | nil => rfl
  | cons y ys ih =>
    unfold State.insertHeld
    split
    · rfl
    · rw [List.length_cons, ih, List.length_cons]

/-- The answer bytes of an entry lie within the two rings. -/
theorem answerOffset_le {k : PubTarget} {o : Nat} (h : k.answerOffset = some o) : o + 8 ≤ 0x2804 := by
  cases k with
  | commandAnswer i =>
    have hplace := commandOffset_lt i
    cases h
    omega
  | overrideAnswer i =>
    have hplace := overrideOffset_lt i
    cases h
    omega
  | record r => cases h
  | initial u => cases h

/-- What every operation keeps, but for RESET and the capture of a master's write: each invariant of the state that holds
before holds after, and the shadows above the command and override rings stand. -/
structure Keeps (s t : State) : Prop where
  shadow : s.ShadowCanonical → t.ShadowCanonical
  credits : s.CreditsBounded → t.CreditsBounded
  notices : s.NoticesBounded → t.NoticesBounded
  held : s.HeldBounded → t.HeldBounded
  defects : s.DefectsOrdered → t.DefectsOrdered
  placed : s.LugLinePlaced → t.LugLinePlaced
  banks : s.OneActiveBank → t.OneActiveBank
  arena : s.ArenaPlaced → t.ArenaPlaced
  tables : ∀ a, 0x2804 ≤ a → readByte t.shadow a = readByte s.shadow a

/-- The content that the invariants speak of. -/
def State.guarded (s : State) :=
  (s.shadow, s.solver, s.notices, s.held, s.boards, s.lugLine, s.banks, s.path.arenaBase)

/-- The fields that no invariant speaks of. -/
def quietFields : List Field :=
  [.pending, .resetLow, .lineState, .lc, .config, .heads, .trimRing, .sortRing, .bins, .logUnit, .runs, .stats, .cmdRing,
    .ovrRing, .sawMask, .routes, .stamps, .publications, .initialRest, .heldReads, .openReads, .waitingGuards, .event,
    .ports]

namespace Keeps

theorem refl (s : State) : Keeps s s := ⟨id, id, id, id, id, id, id, id, fun _ _ => rfl⟩

variable {s t u : State}

theorem trans (h : Keeps s t) (k : Keeps t u) : Keeps s u :=
  ⟨k.shadow ∘ h.shadow, k.credits ∘ h.credits, k.notices ∘ h.notices, k.held ∘ h.held, k.defects ∘ h.defects,
    k.placed ∘ h.placed, k.banks ∘ h.banks, k.arena ∘ h.arena, fun a ha => (k.tables a ha).trans (h.tables a ha)⟩

/-- An operation on fields that no invariant speaks of. -/
theorem same (h : Keeps s t) (hu : u.guarded = t.guarded) : Keeps s u := by
  simp only [State.guarded, Prod.mk.injEq] at hu
  obtain ⟨hshadow, hsolver, hnotices, hheld, hboards, hline, hbanks, harena⟩ := hu
  refine h.trans ⟨?_, ?_, ?_, ?_, ?_, ?_, ?_, ?_, ?_⟩
  · simp only [State.ShadowCanonical, hshadow, imp_self]
  · simp only [State.CreditsBounded, hsolver, imp_self]
  · simp only [State.NoticesBounded, attn, hnotices, imp_self]
  · simp only [State.HeldBounded, hheld, imp_self]
  · simp only [State.DefectsOrdered, hboards, imp_self]
  · simp only [State.LugLinePlaced, hline, imp_self]
  · simp only [State.OneActiveBank, hbanks, imp_self]
  · simp only [State.ArenaPlaced, harena, imp_self]
  · simp only [hshadow, implies_true]

theorem quiet (h : Keeps s t) (hq : OnlyChanges quietFields t u) : Keeps s u := by
  have hshadow : u.shadow = t.shadow := hq .shadow (by decide)
  have hsolver : u.solver = t.solver := hq .solver (by decide)
  have hnotices : u.notices = t.notices := hq .notices (by decide)
  have hheld : u.held = t.held := hq .held (by decide)
  have hboards : u.boards = t.boards := hq .boards (by decide)
  have hline : u.lugLine = t.lugLine := hq .lugLine (by decide)
  have hbanks : u.banks = t.banks := hq .banks (by decide)
  have harena : u.path.arenaBase = t.path.arenaBase := hq .arenaBase (by decide)
  exact h.same (by simp only [State.guarded, hshadow, hsolver, hnotices, hheld, hboards, hline, hbanks, harena])

theorem forEach {α : Type} (h : Keeps s t) {xs : List α} {f : State → α → State}
    (hf : ∀ u x, Keeps u (f u x)) : Keeps s (t.forEach xs f) := by
  induction xs generalizing t with
  | nil => exact h
  | cons x xs ih => exact ih (h.trans (hf t x))

/-! ### The writes of one field -/

theorem setSolver (h : Keeps s t) {x : Solver}
    (hx : t.CreditsBounded → x.shared.length ≤ 6) :
    Keeps s (t.setSolver x) :=
  h.trans ⟨id, hx, id, id, id, id, id, id, fun _ _ => rfl⟩

/-- The usual write of the solver takes and returns no shared credit. -/
theorem setSolver_same (h : Keeps s t) {x : Solver} (hx : x.shared = t.solver.shared) : Keeps s (t.setSolver x) :=
  h.setSolver fun ht => hx ▸ ht

theorem setBanks (h : Keeps s t) {x : Banks}
    (hx : t.OneActiveBank → (x.stateA = .active ↔ x.stateB ≠ .active)) : Keeps s (t.setBanks x) :=
  h.trans ⟨id, id, id, id, id, id, hx, id, fun _ _ => rfl⟩

/-- A write of the banks that leaves their states. -/
theorem setBanks_same (h : Keeps s t) {x : Banks}
    (hx : (x.stateA, x.stateB) = (t.banks.stateA, t.banks.stateB)) : Keeps s (t.setBanks x) := by
  obtain ⟨ha, hb⟩ := Prod.mk.inj hx
  exact h.setBanks fun ht => by rw [ha, hb]; exact ht

theorem setHeld (h : Keeps s t) {x : List HeldOverride} (hx : t.HeldBounded → x.length ≤ 8) :
    Keeps s { t with held := x } :=
  h.trans ⟨id, id, id, hx, id, id, id, id, fun _ _ => rfl⟩

theorem clearLugLine (h : Keeps s t) : Keeps s { t with lugLine := Vector.replicate 64 none } :=
  h.trans ⟨id, id, id, id, id, fun _ i e he => by simp at he, id, id, fun _ _ => rfl⟩

theorem setShadow (h : Keeps s t) {xs : List Host.Cell} (hx : ∀ c ∈ xs, c.1 < 0x2804) :
    Keeps s (t.setShadow (writeBytes t.shadow xs)) :=
  h.trans ⟨fun hw => writeBytes_wf hw, id, id, id, id, id, id, id,
    fun a ha => readByte_writeBytes_other fun c hc => by have := hx c hc; omega⟩

theorem setBoard (h : Keeps s t) {i : Fin 64} {b : Board}
    (hb : t.boards[i].defects.Pairwise (fun d x => d.before x = true) ∧ t.boards[i].defects.length ≤ 64 →
      b.defects.Pairwise (fun d x => d.before x = true) ∧ b.defects.length ≤ 64) : Keeps s (t.setBoard i b) := by
  refine h.trans ⟨id, id, id, id, fun ht j => ?_, id, id, id, fun _ _ => rfl⟩
  by_cases hj : i = j
  · subst hj
    simpa using hb (ht i)
  · simpa [State.setBoard, Vector.getElem_set, Fin.val_inj, hj] using ht j

/-- The usual write of a board leaves its defect list. -/
theorem setBoard_same (h : Keeps s t) {i : Fin 64} {b : Board} (hb : b.defects = t.boards[i].defects) :
    Keeps s (t.setBoard i b) :=
  h.setBoard fun ht => hb ▸ ht

theorem setEntry (h : Keeps s t) {n : Half} {e : Option LugEntry} (he : ∀ x ∈ e, x.lug = n) :
    Keeps s (t.setEntry n e) := by
  refine h.trans ⟨id, id, id, id, id, fun ht j x hx => ?_, id, id, fun _ _ => rfl⟩
  by_cases hj : lugIndex n = j
  · subst hj
    rw [he x (by simpa [State.setEntry] using hx)]
  · exact ht j x (by simpa [State.setEntry, Vector.getElem_set, Fin.val_inj, hj] using hx)

theorem setNotices (h : Keeps s t) {n : Fin 2} {x : NoticeRing}
    (hx : (t.notices[n].held ≤ 32 ∧ (t.notices[n].held = 0 → t.notices[n].attn = false)) →
      x.held ≤ 32 ∧ (x.held = 0 → x.attn = false)) : Keeps s (t.setNotices n x) := by
  refine h.trans ⟨id, id, fun ht m => ?_, id, id, id, id, id, fun _ _ => rfl⟩
  by_cases hm : n = m
  · subst hm
    simpa [attn] using hx (ht n)
  · simpa [State.setNotices, attn, Vector.getElem_set, Fin.val_inj, hm] using ht m

/-! ### Notices and answers -/

theorem publish (h : Keeps s t) {o : FunctionalBlock} {r : Record} : Keeps s (t.publish o r) :=
  h.quiet ((publish_frame o r (by decide)).mpr (.refl _ _))

theorem bump (h : Keeps s t) {k : Stat} : Keeps s (t.bump k) := h.quiet ((bump_frame k (by decide)).mpr (.refl _ _))

/-- A branch of an operation is kept by each of its ways. -/
theorem ite {c : Prop} [Decidable c] {a b : State} (ha : c → Keeps s a) (hb : ¬c → Keeps s b) :
    Keeps s (if c then a else b) := by
  split
  · exact ha ‹_›
  · exact hb ‹_›

theorem storeNotice (h : Keeps s t) {ring : Fin 2} {n : Notice} {lost : Half} (hroom : t.notices[ring].held < 32) :
    Keeps s (t.storeNotice ring n lost) := by
  refine Keeps.publish (Keeps.publish (h.setNotices fun _ => ?_))
  exact ⟨hroom, fun h0 => absurd h0 (Nat.succ_ne_zero _)⟩

theorem loseNotice (h : Keeps s t) {ring : Fin 2} : Keeps s (t.loseNotice ring) := by
  refine ite (fun _ => h) fun _ => publish (h.setNotices fun hring => ?_)
  exact hring

theorem routeNotice (h : Keeps s t) {ring : Fin 2} {n : Notice} : Keeps s (t.routeNotice ring n) :=
  have hlost := ite (fun hroom : t.notices[ring].lost ≠ 0 ∧ t.notices[ring].held < 32 =>
    h.storeNotice (n := .lost ring.val t.notices[ring].lost) (lost := 0) hroom.2) fun _ => h
  ite (fun hroom => hlost.storeNotice hroom) fun _ => hlost.loseNotice

theorem raise (h : Keeps s t) {n : Notice} : Keeps s (t.raise n) := by
  unfold State.raise
  split
  · exact h
  · exact h.routeNotice
  · exact h.routeNotice

theorem raiseIf (h : Keeps s t) {n : Option Notice} : Keeps s (t.raiseIf n) := by
  cases n with
  | none => exact h
  | some n => exact h.raise

theorem raiseAll (h : Keeps s t) {ns : List Notice} : Keeps s (t.forEach ns State.raise) :=
  h.forEach fun _ _ => (refl _).raise

theorem writeAnswer (h : Keeps s t) {o : FunctionalBlock} {k : PubTarget} {a : Nat} {xs : List Byte}
    (ha : a + 0x10 + xs.length ≤ 0x2804) : Keeps s (t.writeAnswer o k a xs) :=
  (h.setShadow fun _ hc => by have := placedAt_mem hc; omega).quiet ((enqueue_frame _ (by decide)).mpr (.refl _ _))

/-! ### The trim solver -/

theorem countCredit (h : Keeps s t) {c : Credit} : Keeps s (t.countCredit c) :=
  h.quiet ((countCredit_frame c (by decide)).mpr (.refl _ _))


/-- R82: a shared credit is taken only where fewer than six are held. -/
theorem take_shared_le {x y : Solver} {c : RequestClass} {i : Fin 64} {k : Credit} (h : x.take c i = some (k, y))
    (hx : x.shared.length ≤ 6) : y.shared.length ≤ 6 := by
  unfold Solver.take at h
  split at h
  case isTrue hfree =>
    cases h
    rw [List.length_append]
    exact hfree
  case isFalse =>
    cases c <;>
    · dsimp only at h
      split at h
      · cases h
        exact hx
      · cases h

theorem giveBack_shared_le {x : Solver} (i : Fin 64) (hx : x.shared.length ≤ 6) : (x.giveBack i).shared.length ≤ 6 :=
  Nat.le_trans List.length_erase_le hx

theorem raiseRequest (h : Keeps s t) {c : RequestClass} {i : Fin 64} : Keeps s (t.raiseRequest c i) := by
  unfold State.raiseRequest
  split
  case h_1 k x htake => exact ((h.setSolver (by exact fun hx => take_shared_le htake hx)).setBoard_same (by rfl)).countCredit
  case h_2 => exact ((h.setSolver_same (by rfl)).setBoard_same (by rfl)).bump

theorem serveOne (h : Keeps s t) {i : Fin 64} : Keeps s (t.serveOne i) := by
  unfold State.serveOne
  split
  case h_1 k x htake =>
    have hle : t.CreditsBounded → (x.unwait i).shared.length ≤ 6 := take_shared_le (y := x) htake
    exact ((h.setSolver hle).setBoard_same (by rfl)).countCredit.publish
  case h_2 => exact h

theorem serveWaiting (h : Keeps s t) : Keeps s t.serveWaiting := h.forEach fun u _ => (refl u).serveOne

theorem restartSolve (h : Keeps s t) {i : Fin 64} : Keeps s (t.restartSolve i) :=
  ((h.setSolver_same (by rfl)).setBoard_same (by rfl)).bump

theorem resolveCause (h : Keeps s t) {i : Fin 64} : Keeps s (t.resolveCause i) := by
  unfold State.resolveCause
  split
  case h_1 => exact h.restartSolve
  case h_2 => exact (h.setBoard_same (by rfl)).raiseRequest
  all_goals exact h

theorem dropRequest (h : Keeps s t) {i : Fin 64} : Keeps s (t.dropRequest i) :=
  (h.setSolver (by exact fun hx => giveBack_shared_le i hx)).setBoard_same (by rfl)

theorem cancelAtCommit (h : Keeps s t) {i : Fin 64} : Keeps s (t.cancelAtCommit i) := by
  unfold State.cancelAtCommit
  split
  case h_1 | h_2 => exact h.dropRequest.bump.serveWaiting
  case h_3 => exact h.dropRequest.bump
  all_goals exact h

theorem beginSolve (h : Keeps s t) : Keeps s t.beginSolve := by
  unfold State.beginSolve
  split
  case h_1 => exact ((h.setSolver_same (by rfl)).setBoard_same (by rfl)).publish
  case h_2 => exact h

theorem storePlan (h : Keeps s t) {i : Fin 64} {p : Plan} : Keeps s (t.storePlan i p) :=
  (h.setSolver_same (by rfl)).setBoard_same (by rfl)

theorem completeSolve (h : Keeps s t) : Keeps s t.completeSolve := by
  unfold State.completeSolve
  split
  case h_1 => exact h
  case h_2 v _ =>
    exact ((h.storePlan.raiseIf.publish.bump).setSolver (by exact fun hx => giveBack_shared_le v.slot hx)).serveWaiting

/-! ### Runs and banks -/

theorem onRun (h : Keeps s t) {n : Half} {f : RunSlot → RunSlot} : Keeps s (t.onRun n f) :=
  h.quiet ((onRun_frame n f (by decide)).mpr (.refl _ _))

theorem publishRun (h : Keeps s t) {n : Half} : Keeps s (t.publishRun n) :=
  h.quiet ((publishRun_frame n (by decide)).mpr (.refl _ _))

theorem settleRun (h : Keeps s t) {r : Fin 8} : Keeps s (t.settleRun r) :=
  ite (fun _ => (h.same (by rfl)).publish.raise) fun _ => h.publish

theorem leaveRun (h : Keeps s t) {n : Half} {f : RunSlot → RunSlot} : Keeps s (t.leaveRun n f) := by
  unfold State.leaveRun
  split
  · exact (h.same (by rfl)).settleRun
  · exact h

theorem openRun (h : Keeps s t) {r : Fin 8} : Keeps s (t.openRun r) :=
  h.quiet ((openRun_frame r (by decide)).mpr (.refl _ _))

theorem advanceRun (h : Keeps s t) {r q : Fin 8} : Keeps s (t.advanceRun r q) := (h.same (by rfl)).settleRun.publish.publish

theorem setRefs (h : Keeps s t) {k : BankId} {n : Nat} : Keeps s (t.setRefs k n) :=
  (h.setBanks fun hx => by cases k <;> exact hx).publish

theorem releaseBank (h : Keeps s t) {k : BankId} {lug : Half} : Keeps s (t.releaseBank k lug) := by
  refine ite (fun hheld => publish (raise (h.setBanks fun hone => ?_))) fun _ => h
  have hstate := hheld.1
  unfold State.OneActiveBank at hone
  cases k <;> simp_all [Banks.state, Banks.setState]

theorem dropReference (h : Keeps s t) {k : BankId} {lug : Half} : Keeps s (t.dropReference k lug) :=
  h.setRefs.releaseBank

theorem makeSwitch (h : Keeps s t) {k : BankId} {n : Half} : Keeps s (t.makeSwitch k n) := by
  have hold : (if 0 < t.banks.refs k.other then BankState.held else BankState.spare) ≠ .active := by
    split <;> decide
  refine publish (raise (h.setBanks fun _ => ?_))
  cases k with
  | a => exact iff_of_true rfl hold
  | b => exact iff_of_false hold fun hb => hb rfl

theorem switchAtLug (h : Keeps s t) {n : Half} : Keeps s (t.switchAtLug n) := by
  unfold State.switchAtLug
  split
  case h_1 => exact h
  case h_2 =>
    refine ite (fun _ => ?_) fun _ => h
    split
    · exact h.makeSwitch
    · exact (h.setBanks_same (by rfl)).publish.raise

theorem dropPendingSwitch (h : Keeps s t) : Keeps s t.dropPendingSwitch := by
  unfold State.dropPendingSwitch
  split
  · exact h
  · exact (h.setBanks_same (by rfl)).raise

/-! ### Commit and sort -/

theorem countFallback (h : Keeps s t) {i : Fin 64} {p : CommittedPlan} : Keeps s (t.countFallback i p) :=
  ite (fun _ => h.onRun.publishRun.bump.raise) fun _ => h

theorem writeTrim (h : Keeps s t) {lug : Half} {x : TrimSlot} : Keeps s (t.writeTrim lug x) := by
  have hover := ite (fun _ : t.trimRing[ringSlot lug].state = .written =>
    (h.bump (k := .trimOverruns)).raise (n := .trimOverrun t.trimRing[ringSlot lug].lug lug)) fun _ => h
  exact (hover.same (by rfl)).publish

theorem commitBoard (h : Keeps s t) {i : Fin 64} : Keeps s (t.commitBoard i) :=
  ((h.cancelAtCommit.setBoard_same (by rfl)).countFallback.writeTrim.setBoard_same (by rfl)).publish

theorem commitLug (h : Keeps s t) {lug : Half} : Keeps s (t.commitLug lug) := by
  unfold State.commitLug
  split
  · exact h
  · split
    · exact h.commitBoard
    · exact h.writeTrim

theorem countOverflow (h : Keeps s t) {lug : Half} {k : BankId} {p : CommittedPlan} {code : Nat} :
    Keeps s (t.countOverflow lug k p code) :=
  ite (fun _ => h.raise.bump) fun _ => h

theorem fillBin (h : Keeps s t) {n : Fin 41} : Keeps s (t.fillBin n) :=
  publish (ite (fun _ => (h.same (by rfl)).raise) fun _ => h.same (by rfl))

theorem writeSort (h : Keeps s t) {lug : Half} {x : SortSlot} : Keeps s (t.writeSort lug x) := by
  have hover := ite (fun _ : t.sortRing[ringSlot lug].state = .written =>
    (h.bump (k := .sortOverruns)).raise (n := .sortOverrun t.sortRing[ringSlot lug].lug lug)) fun _ => h
  exact (hover.same (by rfl)).publish

theorem freeSorted (h : Keeps s t) {i : Fin 64} {p : CommittedPlan} : Keeps s (t.freeSorted i p) :=
  (h.setBoard_same (by rfl)).publish.leaveRun.dropReference

theorem sortInto (h : Keeps s t) {i : Fin 64} {n : Fin 41} {code : Nat} : Keeps s (t.sortInto i n code) :=
  (h.countOverflow.fillBin.setBoard_same (by rfl)).writeSort.freeSorted

theorem drainIfDone (h : Keeps s t) : Keeps s t.drainIfDone := by
  refine ite (fun _ => raise (publish (publish (same (dropPendingSwitch ?_) (by rfl))))) fun _ => h
  exact h.clearLugLine.setHeld fun _ => Nat.zero_le _

theorem sortLug (h : Keeps s t) {lug : Half} : Keeps s (t.sortLug lug) := by
  unfold State.sortLug
  split
  · exact h
  · split
    · exact (h.sortInto.setEntry (by simp)).drainIfDone
    · exact h.writeSort.setEntry (by simp)

/-! ### Logs and measurement -/

theorem countFrame (h : Keeps s t) {k : Fin 9} {o : FrameOutcome} : Keeps s (t.countFrame k o) :=
  h.quiet ((countFrame_frame k o (by decide)).mpr (.refl _ _))

theorem tallyLog (h : Keeps s t) {n : Nat} : Keeps s (t.tallyLog n) :=
  h.quiet ((tallyLog_frame n (by decide)).mpr (.refl _ _))

theorem closeLog (h : Keeps s t) {x : OpenLog} {truncated : Bool} : Keeps s (t.closeLog x truncated) :=
  (h.same (by rfl)).publish.tallyLog.raise.drainIfDone

theorem truncateLog (h : Keeps s t) : Keeps s t.truncateLog := by
  unfold State.truncateLog
  split
  · exact h
  · exact h.closeLog

theorem storeLog (h : Keeps s t) {x : OpenLog} {ends : Bool} : Keeps s (t.storeLog x ends) :=
  ite (fun _ => (h.same (by rfl)).countFrame.closeLog) fun _ => (h.same (by rfl)).countFrame

theorem addSection (h : Keeps s t) {x : OpenLog} {f : Frame} : Keeps s (t.addSection x f) :=
  ite (fun _ => h.countFrame) fun _ => ite (fun _ => h.countFrame) fun _ =>
    ite (fun _ => h.closeLog.countFrame) fun _ => h.storeLog

theorem takeLogFrame (h : Keeps s t) {f : Frame} : Keeps s (t.takeLogFrame f) := by
  refine ite (fun _ => ite (fun _ => h.truncateLog.storeLog) fun _ => h.truncateLog.countFrame) fun _ => ?_
  split
  · exact h.countFrame
  · exact h.addSection

theorem closeBoard (h : Keeps s t) {i : Fin 64} : Keeps s (t.closeBoard i) := by
  have hb : (t.boards[i].reduce.gradeCells t.shadow).defects = t.boards[i].defects := by
    simp only [Board.gradeCells, Board.reduce]
  exact (h.setBoard_same hb).raiseAll.raiseRequest.publish

theorem closeEmpty (h : Keeps s t) {lug : Half} {o : Option Override} : Keeps s (t.closeEmpty lug o) := by
  cases o with
  | none => exact h
  | some o => exact h.raise

theorem closeLug (h : Keeps s t) {lug : Half} : Keeps s (t.closeLug lug) := by
  unfold State.closeLug
  split
  case h_1 => exact h
  case h_2 e he =>
    refine ite (fun _ => h) fun _ => ?_
    split
    · exact (h.setEntry (by simpa using entry_lug he)).closeBoard
    · exact (h.setEntry (by simpa using entry_lug he)).closeEmpty

theorem earlyCloseAll (h : Keeps s t) : Keeps s t.earlyCloseAll := h.forEach fun u _ => (refl u).closeLug

/-! ### Frames, slices and defects -/

theorem setHeadFlag (h : Keeps s t) {k : Fin 9} {slot : Fin 16} {f : HeadFlag} : Keeps s (t.setHeadFlag k slot f) :=
  ite (fun _ => (h.same (by rfl)).bump) fun _ => (h.same (by rfl)).bump.raise

theorem failFrame (h : Keeps s t) {k : Fin 9} {slot : Fin 16} {f : HeadFlag} : Keeps s (t.failFrame k slot f) :=
  ite (fun _ => h.setHeadFlag) fun _ => h.setHeadFlag.earlyCloseAll

theorem addDefect (h : Keeps s t) {i : Fin 64} {d : Defect} : Keeps s (t.addDefect i d) := by
  refine ite (fun hroom => h.setBoard fun hlist => ?_) fun _ => ite (fun _ => (h.setBoard_same (by rfl))) fun _ => (h.setBoard_same (by rfl)).raise
  exact ⟨mergeDefect_pairwise d hlist.1, mergeDefect_length_le hlist.1 hlist.2 hroom⟩

theorem takeDefect (h : Keeps s t) {k : Fin 8} {i : Fin 64} {e : DefectEntry} : Keeps s (t.takeDefect k i e) :=
  ite (fun _ => h.setBoard_same (by rfl)) fun _ => h.addDefect

theorem addSlice (h : Keeps s t) {k : Fin 8} {f : Frame} {i : Fin 64} : Keeps s (t.addSlice k f i) := by
  have hdefects := (h.setBoard_same (i := i) (b := t.boards[i].addSlice k f) (by rfl)).forEach
    (xs := f.defects.take f.defectCount) (f := fun t e => t.takeDefect k i e) fun u _ => (refl u).takeDefect
  exact ite (fun _ => hdefects.closeLug) fun _ => hdefects.publish

theorem offerSlice (h : Keeps s t) {k : Fin 8} {f : Frame} {i : Fin 64} : Keeps s (t.offerSlice k f i).1 := by
  unfold State.offerSlice
  split
  · exact h
  · split
    · exact h
    · exact h.addSlice

theorem openBoard (h : Keeps s t) {e : LugEntry} {i : Fin 64} : Keeps s (t.openBoard e i) := by
  refine ((((h.setBoard fun _ => ?_).setEntry ?_).onRun).publishRun.publish).setRefs
  · exact ⟨List.Pairwise.nil, Nat.zero_le _⟩
  · simp

theorem settleEntry (h : Keeps s t) {k : Fin 8} {f : Frame} {e : LugEntry} : Keeps s (t.settleEntry k f e).1 := by
  unfold State.settleEntry
  split
  · exact h.offerSlice
  · split
    · exact h
    · split
      · exact h
      · split
        · exact h.openBoard.offerSlice
        · exact h

theorem lugWindow (h : Keeps s t) {k : Fin 8} {f : Frame} : Keeps s (t.lugWindow k f).1 := by
  unfold State.lugWindow
  dsimp only
  split
  · exact h
  · split
    · exact h
    · split
      · exact h
      · split
        · exact h
        · exact h.settleEntry

theorem settleGood (h : Keeps s t) {k : Fin 9} {f : Frame} : Keeps s (t.settleGood k f) := by
  unfold State.settleGood
  split
  · exact h.countFrame
  · split
    · exact h.lugWindow.countFrame
    · split
      · exact h.countFrame
      · exact h.takeLogFrame

theorem checkSequence (h : Keeps s t) {k : Fin 9} {slot : Fin 16} {f : Frame} : Keeps s (t.checkSequence k slot f) := by
  have hgap := ite (fun _ : (t.heads[k].expected.any fun e => decide (e ≠ f.seq)) = true =>
    h.setHeadFlag (k := k) (slot := slot) (f := .gap)) fun _ => h
  exact hgap.same (by rfl)

theorem settleArrival (h : Keeps s t) {k : Fin 9} {slot : Fin 16} {f : Frame} {written : BitVec 4} :
    Keeps s (t.settleArrival k slot f written) :=
  ite (fun _ => h.failFrame) fun _ => ite (fun _ => h.failFrame) fun _ =>
    ite (fun _ => h.countFrame) fun _ => h.checkSequence.settleGood

theorem frameArrival (h : Keeps s t) {k : Fin 9} {slot : Fin 16} : Keeps s (t.frameArrival k slot) :=
  (h.same (by rfl)).settleArrival.publish

/-! ### Commands -/

theorem fixBin (h : Keeps s t) {c : LineConfig} {i : Fin 40} : Keeps s (t.fixBin c i) :=
  h.quiet ((fixBin_frame c i (by decide)).mpr (.refl _ _))

theorem start (h : Keeps s t) : Keeps s t.start := by
  have hopened : Keeps s (State.openFirstRun
      { t with config := some (readConfig t.shadow), lugLine := Vector.replicate 64 none, lineState := .run }) :=
    ite (fun _ => openRun (h.clearLugLine.same (by rfl))) fun _ => h.clearLugLine.same (by rfl)
  exact (hopened.forEach fun u _ => (refl u).fixBin).publish

theorem loseBoard (h : Keeps s t) {i : Fin 64} : Keeps s (t.loseBoard i) :=
  (h.dropRequest.setBoard_same (by rfl)).publish.leaveRun.setRefs

theorem enterIdleByStop (h : Keeps s t) : Keeps s t.enterIdleByStop :=
  raise (publish (publish (same (h.clearLugLine.setHeld (x := []) fun _ => Nat.zero_le _) (by rfl))))

theorem stop (h : Keeps s t) : Keeps s t.stop := by
  have hlost : Keeps s ((t.forEach t.slotsInUse State.loseBoard).setSolver Solver.atReset) :=
    (h.forEach fun u _ => (refl u).loseBoard).setSolver fun _ => Nat.zero_le _
  exact ((hlost.forEach fun u _ => (refl u).releaseBank).dropPendingSwitch).enterIdleByStop

theorem restartInFlight (h : Keeps s t) : Keeps s t.restartInFlight := by
  unfold State.restartInFlight
  split
  · exact h
  · exact h.restartSolve.publish

theorem resolveLost (h : Keeps s t) {mask : SawSet} : Keeps s (t.resolveLost mask) :=
  h.forEach fun u _ => (refl u).resolveCause.publish

theorem changeMask (h : Keeps s t) {mask : SawSet} : Keeps s (t.changeMask mask) :=
  (publish (h.same (by rfl))).restartInFlight.resolveLost

theorem enableHead (h : Keeps s t) {arg : Half} {k : Fin 9} : Keeps s (t.enableHead arg k) :=
  h.quiet ((enableHead_frame arg k (by decide)).mpr (.refl _ _))

theorem startLine (h : Keeps s t) : Keeps s t.startLine.1 := by
  unfold State.startLine
  split
  · exact h
  · split
    · exact h
    · split
      · exact h
      · dsimp only
        exact h.start

theorem drainLine (h : Keeps s t) : Keeps s t.drainLine.1 := by
  unfold State.drainLine
  split
  · exact h
  · dsimp only
    exact (h.same (by rfl)).publish.drainIfDone

theorem stopLine (h : Keeps s t) : Keeps s t.stopLine.1 := by
  unfold State.stopLine
  split
  · dsimp only
    exact h.stop
  · exact h

theorem acceptSwitch (h : Keeps s t) {k : BankId} {lug : Half} : Keeps s (t.acceptSwitch k lug).1 := by
  unfold State.acceptSwitch
  split
  · dsimp only
    exact (h.setBanks_same (by rfl)).publish
  · dsimp only
    exact h.makeSwitch

theorem bankSwitch (h : Keeps s t) {bank lug : Half} : Keeps s (t.bankSwitch bank lug).1 := by
  unfold State.bankSwitch
  dsimp only
  split_ifs
  any_goals exact h
  split
  · exact h
  · exact h.acceptSwitch

theorem setSawMask (h : Keeps s t) {arg : Half} : Keeps s (t.setSawMask arg).1 := by
  unfold State.setSawMask
  dsimp only
  split_ifs
  · exact h
  · exact h
  · exact h.changeMask

theorem headEnable (h : Keeps s t) {arg : Half} : Keeps s (t.headEnable arg).1 := by
  have hheads : Keeps s (t.forEach (List.finRange 9) fun u k => u.enableHead arg k) :=
    h.forEach fun u _ => (refl u).enableHead
  unfold State.headEnable
  split
  · exact h
  · dsimp only
    exact ite (fun _ => hheads.earlyCloseAll) fun _ => hheads

theorem runAdvance (h : Keeps s t) : Keeps s t.runAdvance.1 := by
  unfold State.runAdvance
  split
  · exact h
  · dsimp only
    exact h.advanceRun

/-- R166: each of the twelve commands, and the entry that names none. -/
theorem doCommand (h : Keeps s t) (c : Command) : Keeps s (t.doCommand c).1 := by
  cases c with
  | startLine => exact h.startLine
  | drainLine => exact h.drainLine
  | stopLine => exact h.stopLine
  | bankSwitch bank lug => exact h.bankSwitch
  | sawMask saws => exact h.setSawMask
  | headEnable heads => exact h.headEnable
  | runNew => exact h.quiet ((runNew_frame (by decide)).mpr (.refl _ _))
  | runAdvance => exact h.runAdvance
  | binHold bin => exact h.quiet ((binHold_frame bin (by decide)).mpr (.refl _ _))
  | binEmpty bin => exact h.quiet ((binEmpty_frame bin (by decide)).mpr (.refl _ _))
  | noticeRoute kind route => exact h.quiet ((noticeRoute_frame kind route (by decide)).mpr (.refl _ _))
  | statsClear => exact h.quiet ((statsClear_frame (by decide)).mpr (.refl _ _))
  | unknown => exact h

theorem takeCommand (h : Keeps s t) {i : Fin 64} {x : CommandEntry} : Keeps s (t.takeCommand i x) := by
  have hplace := commandOffset_lt i
  exact (h.doCommand x.command).writeAnswer (by rw [commandAnswer_length]; omega)

/-! ### Overrides -/

theorem supersede (h : Keeps s t) {lug : Half} {old : Option Override} {new : Override} :
    Keeps s (t.supersede lug old new) := by
  cases old with
  | none => exact h
  | some o => exact h.raise

theorem dropHeld (h : Keeps s t) {lug : Half} : Keeps s (t.dropHeld lug) :=
  h.setHeld fun hx => Nat.le_trans (List.length_filter_le _ _) hx

theorem replaceHeld (h : Keeps s t) {lug : Half} {o : Override} : Keeps s (t.replaceHeld lug o) :=
  h.setHeld fun hx => by rwa [List.length_map]

theorem holdOverride (h : Keeps s t) {lug : Half} {station : Fin 8} {a : Option OverrideAction} :
    Keeps s (t.holdOverride lug station a).1 := by
  unfold State.holdOverride
  dsimp only
  split
  · exact h
  · split
    · exact h.dropHeld
    · exact h.replaceHeld.supersede
    · split
      case isTrue hroom => exact h.setHeld fun _ => by rw [insertHeld_length]; exact hroom
      case isFalse => exact h

theorem overrideEntry (h : Keeps s t) {e : LugEntry} {station : Fin 8} {a : Option OverrideAction} :
    Keeps s (t.overrideEntry e station a).1 := by
  unfold State.overrideEntry
  split
  · exact h
  · cases a with
    | none => exact h.setEntry (by simp)
    | some x => exact (h.setEntry (by simp)).supersede

theorem attach (h : Keeps s t) {i : Fin 64} {lug : Half} {station : Fin 8} {a : Option OverrideAction} :
    Keeps s (t.attach i lug station a) := by
  cases a with
  | none => exact h.setBoard_same (by rfl)
  | some x => exact (h.setBoard_same (by rfl)).supersede

theorem overrideBoard (h : Keeps s t) {i : Fin 64} {lug : Half} {station : Fin 8} {a : Option OverrideAction} :
    Keeps s (t.overrideBoard i lug station a).1 := by
  unfold State.overrideBoard
  dsimp only
  split_ifs
  · exact h
  · exact h
  · exact h.attach.resolveCause.publish

theorem overrideLate (h : Keeps s t) {i : Fin 64} {lug : Half} {station : Fin 8} {x : OverrideAction} :
    Keeps s (t.overrideLate i lug station x).1 := by
  unfold State.overrideLate
  dsimp only
  split_ifs
  · exact h
  · exact (h.attach.setBoard_same (by rfl)).publish

theorem overrideInLine (h : Keeps s t) {e : LugEntry} {station : Fin 8} {a : Option OverrideAction} :
    Keeps s (t.overrideInLine e station a).1 := by
  unfold State.overrideInLine
  split
  · split
    · unfold State.overrideCommitted
      split
      · exact h
      · exact h
      · exact h.overrideLate
      · exact h.overrideLate
    · exact h.overrideBoard
  · split
    · exact h
    · exact h.overrideEntry

theorem decideOverride (h : Keeps s t) {x : OverrideEntry} : Keeps s (t.decideOverride x).1 := by
  unfold State.decideOverride
  split
  · exact h
  · split
    · exact h
    · unfold State.overrideStage
      dsimp only
      split_ifs
      · exact h.holdOverride
      · exact h
      · exact h
      · split
        · exact h
        · exact h.overrideInLine

theorem takeOverride (h : Keeps s t) {i : Fin 64} {x : OverrideEntry} : Keeps s (t.takeOverride i x) := by
  have hplace := overrideOffset_lt i
  exact h.decideOverride.bump.writeAnswer (by rw [overrideAnswer_length]; omega)

theorem moveHeld (h : Keeps s t) {n : Half} : Keeps s (t.moveHeld n) := by
  unfold State.moveHeld
  split
  case h_1 o e _ he => exact h.dropHeld.setEntry (by simpa using entry_lug he)
  case h_2 => exact h

/-! ### The rings -/

theorem setCounts (h : Keeps s t) {ring : Ring} {x : RingCounts} : Keeps s (t.setCounts ring x) := by
  cases ring <;> exact h.same (by rfl)

theorem takeEntry (h : Keeps s t) {i : Fin 64} {x : RingEntry} : Keeps s (t.takeEntry i x) := by
  cases x with
  | command x => exact h.takeCommand
  | override x => exact h.takeOverride

theorem takeArrival (h : Keeps s t) {ring : Ring} {c : Half} : Keeps s (t.takeArrival ring c) :=
  ite (fun _ => h.setCounts) fun _ =>
    publish (setCounts (forEach h.setCounts fun u _ => (refl u).takeEntry))

theorem countArrival (h : Keeps s t) {ring : Ring} : Keeps s (t.countArrival ring) :=
  ite (fun _ => h.raise.bump) fun _ => ite (fun _ => h.setCounts) fun _ => h.takeArrival

theorem takePending (h : Keeps s t) {ring : Ring} : Keeps s (t.takePending ring) := by
  unfold State.takePending
  split
  · exact h
  · exact h.takeArrival

theorem masterWrite (h : Keeps s t) {o : Nat} {xs : List Byte} (ho : o + xs.length ≤ 0x2804) :
    Keeps s (t.masterWrite o xs) :=
  (h.setShadow (xs := placedAt o xs) fun _ hc => by have := placedAt_mem hc; omega).same (by rfl)

theorem giveEntry (h : Keeps s t) {ring : Ring} {xs : List Byte} (hx : xs.length = 16) :
    Keeps s (t.giveEntry ring xs) := by
  refine ite (fun _ => h) fun _ => countArrival (masterWrite (masterWrite h ?entry) ?count)
  case entry =>
    have hcommand := commandOffset_lt (entryIndex (t.nextEntry ring))
    have hoverride := overrideOffset_lt (entryIndex (t.nextEntry ring))
    cases ring <;> simp only [Ring.entryOffset] <;> omega
  case count => cases ring <;> simp [Ring.countOffset]

theorem giveCommand (h : Keeps s t) {code : Byte} {a b : Half} : Keeps s (t.giveCommand code a b) :=
  h.giveEntry (CommandEntry.bytes_length _)

theorem giveOverride (h : Keeps s t) {x : OverrideEntry} : Keeps s (t.giveOverride x) :=
  h.giveEntry (OverrideEntry.bytes_length _)

/-! ### Publications in transit -/

theorem enqueue (h : Keeps s t) {p : Publication} : Keeps s (t.enqueue p) := h.same (by rfl)

theorem endInit (h : Keeps s t) : Keeps s t.endInit :=
  takePending (takePending (publish (publish (same h (by rfl)))))

theorem continueInit (h : Keeps s t) : Keeps s t.continueInit := by
  unfold State.continueInit
  split
  · exact h.endInit
  · exact h.same (by rfl)

theorem answerSlot (h : Keeps s t) {stamp : Half} {r : Record} : Keeps s (t.answerSlot stamp r) := by
  cases r with
  | notice ring slot =>
    refine ite (fun hheld => h.setNotices fun hring => ⟨hring.1, fun h0 => ?_⟩) fun _ => h
    have hnone : t.notices[ring].held = 0 := h0
    rw [NoticeRing.holds, hnone] at hheld
    simp at hheld
  | _ => exact h

theorem releaseReads (h : Keeps s t) {rs : List Record} : Keeps s (t.releaseReads rs) :=
  h.quiet ((releaseReads_frame rs (by decide)).mpr (.refl _ _))

theorem retire (h : Keeps s t) {p : Publication} : Keeps s (t.retire p) :=
  h.releaseReads.forEach fun u _ => (refl u).answerSlot

theorem copyAnswer (h : Keeps s t) {q : Publication} : Keeps s (t.copyAnswer q) := by
  unfold State.copyAnswer
  split
  case h_1 o x _ ho _ =>
    refine h.setShadow fun c hc => ?_
    have hplaced := placedAt_mem hc
    have hlen : (x.bytes.take 8).length ≤ 8 := List.length_take_le _ _
    have hentry := answerOffset_le ho
    omega
  case h_2 => exact h

theorem issueAnswers (h : Keeps s t) {p : Publication} : Keeps s (t.issueAnswers p) :=
  h.forEach fun u _ => (refl u).copyAnswer

theorem afterInitial (h : Keeps s t) {x : PubTarget} : Keeps s (t.afterInitial x) := by
  cases x with
  | initial u => exact h.continueInit
  | _ => exact h

theorem injectedAnswer (h : Keeps s t) {index : Nat} : Keeps s (t.injectedAnswer index) := by
  unfold State.injectedAnswer
  split
  · exact h
  · split
    · exact h
    · unfold State.answerWrite
      split
      · exact h.same (by rfl)
      · exact afterInitial (issueAnswers (retire (h.same (by rfl))))

theorem release (h : Keeps s t) {sel : BitVec 6} : Keeps s (t.release sel) := by
  refine ite (fun _ => continueInit (h.trans ⟨id, id, id, id, id, id, id, fun _ => ?_, fun _ _ => rfl⟩)) fun _ => h
  exact ⟨sel.toNat, sel.isLt, rfl⟩

theorem writeOut (h : Keeps s t) {xs : List InjectedWrite} {p : Publication} : Keeps s (t.writeOut xs p) :=
  (h.forEach fun u _ => (refl u).same (by rfl)).retire

theorem completeInit (h : Keeps s t) : Keeps s t.completeInit := by
  refine ite (fun _ => ?_) fun _ => h
  have hbegun : Keeps s t.writeBegun := forEach (h.same (by rfl)) fun u _ => (refl u).writeOut
  exact (hbegun.forEach fun u _ => writeOut (same (refl u) (by rfl))).endInit

/-! ### Upstream reads -/

theorem removeOldest (h : Keeps s t) {ring : Fin 2} : Keeps s (t.removeOldest ring) := by
  refine publish (h.setNotices fun hring => ⟨Nat.le_trans (Nat.sub_le _ _) hring.1, fun h0 => ?_⟩)
  have hlast : ¬ 1 < t.notices[ring].held := by
    have : t.notices[ring].held - 1 = 0 := h0
    omega
  exact (congrArg _ (decide_eq_false hlast)).trans (Bool.and_false _)

theorem handHeader (h : Keeps s t) {r : Record} {header : List Byte} : Keeps s (t.handHeader r header) := by
  cases r with
  | head k => exact h.quiet ((consumeHead_frame k header (by decide)).mpr (.refl _ _))
  | run i => exact h.quiet ((consumeRun_frame i header (by decide)).mpr (.refl _ _))
  | trim i => exact h.quiet ((consumeTrim_frame i header (by decide)).mpr (.refl _ _))
  | sort i => exact h.quiet ((consumeSort_frame i header (by decide)).mpr (.refl _ _))
  | notice ring slot => exact ite (fun _ => h) fun _ => ite (fun _ => h.removeOldest) fun _ => h
  | _ => exact h

theorem takeGuard (h : Keeps s t) {n : Notice} : Keeps s (t.takeGuard n) := (h.same (by rfl)).bump.raise

theorem orderGuard (h : Keeps s t) {block : Nat} {n : Notice} : Keeps s (t.orderGuard block n) := by
  unfold State.orderGuard
  split
  · exact h.takeGuard
  · exact h.same (by rfl)

theorem handCovered (h : Keeps s t) {r : BusRead} {good : Bool} {data : List Byte} :
    Keeps s (t.handCovered r good data) := by
  unfold State.handCovered
  split
  · exact ite (fun _ => h.forEach fun u _ => (refl u).handHeader) fun _ => h
  · exact h

theorem upstreamRead (h : Keeps s t) {e : ReadEvent} : Keeps s (t.upstreamRead e) := by
  refine ite (fun _ => h) fun _ => ?_
  cases e with
  | accept r => exact h.quiet ((acceptRead_frame r (by decide)).mpr (.refl _ _))
  | answer r good data =>
    refine ite (fun _ => ?_) fun _ => h
    have hhanded : Keeps s (((t.setPath { t.path with openReads := t.path.openReads.erase r }).emit
        (.masterAnswer good data)).handCovered r good data) := handCovered (same h (by rfl))
    exact forEach (same hhanded (by rfl)) fun u _ => (refl u).takeGuard

/-! ### The lug event and upstream writes -/

theorem lugTask (h : Keeps s t) {x : LugTask} : Keeps s (t.lugTask x) := by
  cases x with
  | enter => exact h.moveHeld.switchAtLug
  | close => exact h.closeLug
  | commit => exact ite (fun _ => h.closeLug.commitLug) fun _ => h.commitLug
  | sort => exact h.sortLug
  | status => exact h.publish
  | statistics => exact h.publish

theorem lugEvent (h : Keeps s t) {order : List LugTask} : Keeps s (t.lugEvent order) := by
  refine ite (fun _ => forEach (bump (setEntry (same h (by rfl)) ?_)) fun u _ => (refl u).lugTask) fun _ => h
  simp

theorem captureEvents (h : Keeps s t) {o : Nat} {xs : List Host.Cell} : Keeps s (t.captureEvents o xs) := by
  unfold State.captureEvents
  split
  · exact ite (fun _ => frameArrival (same h (by rfl))) fun _ => h.same (by rfl)
  · exact ite (fun _ => h.countArrival) fun _ => h
  · exact ite (fun _ => h.countArrival) fun _ => h
  · exact h

theorem forward (h : Keeps s t) {a : Nat} {w : BusWrite} : Keeps s (t.forward a w) :=
  h.quiet ((forward_frame a w (by decide)).mpr (.refl _ _))

end Keeps

/-- What a command may do before it does anything else: capture a write no enabled byte of which is guarded (R151). -/
def State.Captures (s u : State) : Prop :=
  u = s ∨ ∃ o w, s.guardHit (enabledBytes o w.bytes) = none ∧ u = s.setShadow (s.captured o w)

theorem upstreamWrite_keeps (s : State) (w : BusWrite) : ∃ u, s.Captures u ∧ Keeps u (s.upstreamWrite w) := by
  unfold State.upstreamWrite
  split
  · exact ⟨s, .inl rfl, .refl s⟩
  · split
    case h_1 => exact ⟨s, .inl rfl, (Keeps.refl s).forward⟩
    case h_2 o _ _ =>
      unfold State.arenaWrite
      dsimp only
      split
      case h_1 => exact ⟨s, .inl rfl, (Keeps.refl s).orderGuard⟩
      case h_2 hguard =>
        refine ⟨_, .inr ⟨o, w, hguard, rfl⟩, ?_⟩
        unfold State.captureWrite
        dsimp only
        split
        · exact (Keeps.refl _).forward
        · exact (Keeps.refl _).forward.captureEvents

/-- What a command but RESET can do: capture one write, and then only what every operation keeps. -/
theorem exec_keeps {c : Instr} {s t : State} (hc : c ≠ .reset) (h : exec c s = .next t) :
    ∃ u, s.beginEvent.Captures u ∧ Keeps u t := by
  have hr := Keeps.refl s.beginEvent
  cases c with
  | reset => exact absurd rfl hc
  | watchedWrite w | guardedWrite w | frameArrival w => cases h; exact upstreamWrite_keeps _ w
  | resetRelease sel => cases h; exact ⟨_, .inl rfl, hr.release⟩
  | initialPublicationEnd => cases h; exact ⟨_, .inl rfl, hr.completeInit⟩
  | lugEvent order => cases h; exact ⟨_, .inl rfl, hr.lugEvent⟩
  | solveBegin => cases h; exact ⟨_, .inl rfl, hr.beginSolve⟩
  | solveCompletion => cases h; exact ⟨_, .inl rfl, hr.completeSolve⟩
  | injectedWriteAnswer index good => cases h; exact ⟨_, .inl rfl, hr.injectedAnswer⟩
  | headStatusConsumingRead e | runRecordConsumingRead e | trimSortConsumingRead e | noticeConsumingRead e =>
    cases h; exact ⟨_, .inl rfl, hr.upstreamRead⟩
  | overrideGrade | overrideTrim | overrideReman | overrideCancel | overrideUnknownKind =>
    cases h; exact ⟨_, .inl rfl, hr.giveOverride⟩
  | startLine | drainLine | stopLine | bankSwitch | sawMask | headEnable | runNew | runAdvance | binHold | binEmpty
    | noticeRoute | statsClear | commandUnknown => cases h; exact ⟨_, .inl rfl, hr.giveCommand⟩

/-- A property of states that RESET brings about, that a capture keeps and that every operation keeps, every step
keeps. -/
theorem step_keeps_of {I : State → Prop} (hreset : ∀ s : State, I s.enterReset)
    (hcapture : ∀ s u : State, s.Captures u → I s → I u) (hkeeps : ∀ s t : State, Keeps s t → I s → I t) {s t : State}
    (hs : I s) (h : step s = .next t) : I t := by
  unfold step at h
  split at h
  case h_1 => cases h; exact hs
  case h_2 c cs _ =>
    have hbegin : I (State.beginEvent { s with pending := cs }) := hkeeps s _ ((Keeps.refl s).same (by rfl)) hs
    by_cases hc : c = .reset
    · subst hc
      cases h
      exact hreset _
    · obtain ⟨u, hu, ht⟩ := exec_keeps hc h
      exact hkeeps u t ht (hcapture _ u hu hbegin)

/-- A capture writes the shadow alone. -/
theorem State.Captures.only {s u : State} (h : s.Captures u) : OnlyChanges [.shadow] s u := by
  obtain rfl | ⟨o, w, -, rfl⟩ := h
  · exact .refl _ _
  · exact (setShadow_frame _ (by simp)).mpr (.refl _ _)

theorem guardedArea_eq_some {s : State} {a : Nat} {x : Area} (harea : areaOf a = some x) (hguards : s.guards x = true) :
    s.guardedArea a = some x := by
  simp only [State.guardedArea, harea, hguards, if_true]

/-- The area of a table bank (Table 9-1). -/
def bankArea : BankId → Area
  | .a => .bankA
  | .b => .bankB

theorem areaOf_bank {k : BankId} {a : Nat} (hlo : bankBase k ≤ a) (hhi : a < bankBase k + 0x1000) :
    areaOf a = some (bankArea k) := by
  cases k <;> simp only [bankBase] at hlo hhi
  case a =>
    rw [areaOf, if_neg (by omega), if_neg (by omega), if_neg (by omega), if_neg (by omega), if_neg (by omega),
      if_neg (by omega), if_pos (by omega), bankArea]
  case b =>
    rw [areaOf, if_neg (by omega), if_neg (by omega), if_neg (by omega), if_neg (by omega), if_neg (by omega),
      if_neg (by omega), if_neg (by omega), if_pos (by omega), bankArea]

/-- R153: a bank that is ACTIVE or HELD is guarded. -/
theorem guards_bank {s : State} {k : BankId} (hk : s.banks.state k ≠ .spare) : s.guards (bankArea k) = true := by
  cases k <;> exact decide_eq_true hk

/-- R152: a captured write has no byte in a guarded area, so none in a bank that is ACTIVE or HELD. -/
theorem captured_bank {s : State} {o : Nat} {w : BusWrite} (h : s.guardHit (enabledBytes o w.bytes) = none)
    {k : BankId} (hk : s.banks.state k ≠ .spare) {a : Nat} (hlo : bankBase k ≤ a) (hhi : a < bankBase k + 0x1000) :
    readByte (s.captured o w) a = readByte s.shadow a := by
  refine readByte_writeBytes_other fun c hc hca => ?_
  have hfree : s.guardedArea c.1 = none := List.findSome?_eq_none_iff.mp h c (List.mem_of_mem_filter hc)
  rw [hca, guardedArea_eq_some (areaOf_bank hlo hhi) (guards_bank hk)] at hfree
  cases hfree

/-- The values that an attention output, a defect list and an entry have after RESET, over all indices. -/
theorem reset_notices (n : Fin 2) : State.reset.notices[n] = NoticeRing.atReset := by
  simp [State.reset]

theorem reset_boards (i : Fin 64) : State.reset.boards[i] = Board.blank := by simp [State.reset]

theorem reset_lugLine (i : Fin 64) : State.reset.lugLine[i] = none := by simp [State.reset]

end Sys2Proof.Machine

namespace Sys2Proof.Proofs

open Sys2Proof.Machine

/-- Settles O4: each invariant is read off the reset values. -/
theorem invariantsHoldAtReset : Obligations.InvariantsHoldAtReset := by
  refine ⟨reset_shadow_wf, Nat.zero_le _, fun n => ?notices, Nat.zero_le _, fun i => ?defects, fun i e he => ?placed,
    iff_of_true rfl (by decide), ⟨0, by decide, rfl⟩⟩
  case notices => rw [attn, reset_notices]; exact ⟨Nat.zero_le _, fun _ => rfl⟩
  case defects => rw [reset_boards]; exact ⟨List.Pairwise.nil, Nat.zero_le _⟩
  case placed => rw [reset_lugLine] at he; cases he

/-- Settles O57: a capture and every other write of the shadows write byte by byte, in canonical form. -/
theorem stepKeepsShadowCanonical : Obligations.StepKeepsShadowCanonical := by
  refine fun s t => step_keeps_of (I := State.ShadowCanonical) (fun _ => reset_shadow_wf) (fun s u hu hs => ?capture)
    fun s t h => h.shadow
  case capture =>
    obtain rfl | ⟨o, w, -, rfl⟩ := hu
    · exact hs
    · exact writeBytes_wf hs

/-- Settles O58: each bound is kept by every operation, and no capture touches what it speaks of. -/
theorem stepKeepsBounds : Obligations.StepKeepsBounds := by
  obtain ⟨-, hcredits, hnotices, hheld, hdefects, -⟩ := invariantsHoldAtReset
  refine ⟨fun s t => step_keeps_of (fun _ => hcredits) (fun s u hu => ?credits) fun s t h => h.credits,
    fun s t => step_keeps_of (fun _ => hnotices) (fun s u hu => ?notices) fun s t h => h.notices,
    fun s t => step_keeps_of (fun _ => hheld) (fun s u hu => ?held) fun s t h => h.held,
    fun s t => step_keeps_of (fun _ => hdefects) (fun s u hu => ?defects) fun s t h => h.defects⟩
  case credits =>
    have hsame : u.solver = s.solver := hu.only .solver (by simp)
    simp only [State.CreditsBounded, hsame, imp_self]
  case notices =>
    have hsame : u.notices = s.notices := hu.only .notices (by simp)
    simp only [State.NoticesBounded, attn, hsame, imp_self]
  case held =>
    have hsame : u.held = s.held := hu.only .held (by simp)
    simp only [State.HeldBounded, hsame, imp_self]
  case defects =>
    have hsame : u.boards = s.boards := hu.only .boards (by simp)
    simp only [State.DefectsOrdered, hsame, imp_self]

/-- Settles O59: as O58. -/
theorem stepKeepsBankAndPlacement : Obligations.StepKeepsBankAndPlacement := by
  obtain ⟨-, -, -, -, -, hplaced, hbanks, harena⟩ := invariantsHoldAtReset
  refine ⟨fun s t => step_keeps_of (fun _ => hbanks) (fun s u hu => ?banks) fun s t h => h.banks,
    fun s t => step_keeps_of (fun _ => hplaced) (fun s u hu => ?placed) fun s t h => h.placed,
    fun s t => step_keeps_of (fun _ => harena) (fun s u hu => ?arena) fun s t h => h.arena⟩
  case banks =>
    have hsame : u.banks = s.banks := hu.only .banks (by simp)
    simp only [State.OneActiveBank, hsame, imp_self]
  case placed =>
    have hsame : u.lugLine = s.lugLine := hu.only .lugLine (by simp)
    simp only [State.LugLinePlaced, hsame, imp_self]
  case arena =>
    have hsame : u.path.arenaBase = s.path.arenaBase := hu.only .arenaBase (by simp)
    simp only [State.ArenaPlaced, hsame, imp_self]

/-- Settles O60: a capture writes no guarded byte, and every other write of the shadows lies in the two rings. -/
theorem usedBankKeepsContent : Obligations.UsedBankKeepsContent := by
  intro c s t k a hc h hk hlo hhi
  obtain ⟨u, hu, hkeeps⟩ := exec_keeps hc h
  have habove : 0x2804 ≤ a := Nat.le_trans (by cases k <;> decide) hlo
  rw [hkeeps.tables a habove]
  obtain rfl | ⟨o, w, hguard, rfl⟩ := hu
  · rfl
  · exact captured_bank hguard hk hlo hhi

end Sys2Proof.Proofs
end

section
/-! The machine as a whole, its reset and its release: the step, the queue, and the values that RESET gives. -/

namespace Sys2Proof.Machine

/-- Every field but the queue. -/
def allButQueue : List Field :=
  [.resetLow, .lineState, .lc, .config, .lugLine, .boards, .heads, .solver, .held, .trimRing, .sortRing, .bins, .logUnit,
    .runs, .stats, .cmdRing, .ovrRing, .banks, .sawMask, .routes, .notices, .arenaBase, .stamps, .publications,
    .initialRest, .heldReads, .openReads, .waitingGuards, .event, .ports, .shadow]

/-- No command touches the queue: RESET keeps it by its definition, every other one by its frame. -/
theorem exec_next (c : Instr) (s : State) : ∃ t, exec c s = .next t ∧ OnlyChanges allButQueue s t := by
  have hb : OnlyChanges allButQueue s s.beginEvent := (beginEvent_frame (by decide)).mpr (.refl _ _)
  cases c with
  | reset =>
    refine ⟨_, rfl, fun f hf => ?_⟩
    obtain rfl : f = .pending := by cases f <;> first | rfl | (simp [allButQueue] at hf)
    rfl
  | watchedWrite w | guardedWrite w | frameArrival w => exact ⟨_, rfl, (upstreamWrite_frame w (by decide)).mpr hb⟩
  | resetRelease sel => exact ⟨_, rfl, (release_frame sel (by decide)).mpr hb⟩
  | initialPublicationEnd => exact ⟨_, rfl, (completeInit_frame (by decide)).mpr hb⟩
  | lugEvent order => exact ⟨_, rfl, (lugEvent_frame order (by decide)).mpr hb⟩
  | solveBegin => exact ⟨_, rfl, (beginSolve_frame (by decide)).mpr hb⟩
  | solveCompletion => exact ⟨_, rfl, (completeSolve_frame (by decide)).mpr hb⟩
  | injectedWriteAnswer index good => exact ⟨_, rfl, (injectedAnswer_frame index (by decide)).mpr hb⟩
  | headStatusConsumingRead e | runRecordConsumingRead e | trimSortConsumingRead e | noticeConsumingRead e =>
    exact ⟨_, rfl, (upstreamRead_frame e (by decide)).mpr hb⟩
  | overrideGrade | overrideTrim | overrideReman | overrideCancel | overrideUnknownKind =>
    exact ⟨_, rfl, (giveOverride_frame _ (by decide)).mpr hb⟩
  | startLine | drainLine | stopLine | bankSwitch | sawMask | headEnable | runNew | runAdvance | binHold | binEmpty
    | noticeRoute | statsClear | commandUnknown => exact ⟨_, rfl, (giveCommand_frame _ _ _ (by decide)).mpr hb⟩

theorem exec_resetRelease (s : State) (sel : BitVec 6) :
    exec (.resetRelease sel) s = .next (s.beginEvent.release sel) := rfl

/-- R149 and R162: with RESET_N low, the release samples the arena base and begins the first unit. -/
theorem release_of_low {s : State} (h : s.resetLow = true) (sel : BitVec 6) :
    s.release sel =
      State.beginUnit
        { s with
          resetLow := false
          path := { s.path with arenaBase := sel.toNat * arenaSize, initialRest := initialUnits } }
        .status initialUnits.tail := by
  rw [State.release, if_pos h]
  rfl

theorem reset_heads (h : Fin 9) : State.reset.heads[h] = Head.atReset := by simp [State.reset]

/-! ### The committed plan (R120) -/

variable {b : Board} {m : List Host.Cell} {mask : SawSet}

/-- Without a solution of its override a board's committed plan comes from the steps after the second of R120. -/
theorem selectCommit_of_unsolved (hreman : b.override.map Override.action ≠ some .reman) (hstate : b.state ≠ .solved) :
    b.selectCommit m mask = b.commitWithoutSolution m mask := by
  rw [Board.selectCommit, if_neg hreman]
  split
  case h_1 hsolved _ => exact absurd hsolved hstate
  case h_2 => rfl

theorem commitWithoutSolution_of_stale {p : Plan} {g : Fin 7} (hgrade : b.override.map Override.action = some (.grade g))
    (hstale : b.stale = some p) (hproduct : p.reason = none) :
    b.commitWithoutSolution m mask = staleCommit m b.bank mask p g.val := by
  simp only [Board.commitWithoutSolution, hstale, hgrade, hproduct, if_true]

theorem commitWithoutSolution_of_noGrade (h : ∀ g, b.override.map Override.action ≠ some (.grade g)) :
    b.commitWithoutSolution m mask = unsolvedCommit b.override := by
  unfold Board.commitWithoutSolution
  split
  case h_1 g _ hgrade => exact absurd hgrade (h g)
  case h_2 => rfl

theorem commitWithoutSolution_of_noProduct (h : ∀ p, b.stale = some p → p.reason ≠ none) :
    b.commitWithoutSolution m mask = unsolvedCommit b.override := by
  unfold Board.commitWithoutSolution
  split
  case h_1 p g hstale _ => exact if_neg (h p hstale)
  case h_2 => rfl

end Sys2Proof.Machine

namespace Sys2Proof.Proofs

open Sys2Proof.Machine

/-- Settles O1: by the definition of a step. -/
theorem stepRunsFrontCommand : Obligations.StepRunsFrontCommand := fun _ _ => rfl

/-- Settles O2: every row has its meaning, and none touches the queue. -/
theorem everyCommandAnswersNext : Obligations.EveryCommandAnswersNext := by
  refine ⟨fun c s => ?_, fun s hempty => ?_⟩
  · obtain ⟨t, ht, honly⟩ := exec_next c s
    exact ⟨t, ht, honly .pending (by decide)⟩
  · rw [step, hempty]

/-- Settles O3: RESET by its definition, and each value by reading it off the reset state. -/
theorem resetValues : Obligations.ResetValues := by
  refine ⟨fun _ => rfl, ?_⟩
  refine ⟨⟨rfl, rfl, rfl, reset_lugLine⟩, reset_boards, fun h => ?heads, ⟨rfl, rfl⟩, ⟨rfl, rfl, fun i => ?logs⟩,
    ⟨fun r => ?runs, rfl, rfl, rfl, rfl⟩, ⟨fun i => ⟨?trim, ?sort⟩, fun n => ?bins⟩, fun k => ?stats, ⟨rfl, rfl⟩,
    ⟨rfl, rfl, rfl⟩, fun n => ?notices, rfl, fun r => ?stamps, rfl, rfl, rfl, rfl, rfl, fun _ => rfl⟩
  case heads =>
    rw [reset_heads]
    exact ⟨rfl, rfl, rfl, fun k => by simp [Head.atReset], fun k => by simp [Head.atReset]⟩
  case notices =>
    rw [attn, reset_notices]
    exact ⟨fun k => by simp [NoticeRing.atReset], rfl, rfl, rfl, rfl⟩
  case stamps =>
    change State.reset.path.stamps[r.index] = 0
    simp [State.reset, Path.atReset]
  all_goals simp [State.reset, RunUnit.atReset, Tally.zero]

/-- Settles O5: the release begins the status block's unit, which stands first in the order. -/
theorem resetReleaseBegins : Obligations.ResetReleaseBegins := by
  intro s sel hlow
  refine ⟨_, exec_resetRelease s sel, ?_⟩
  rw [release_of_low (s := s.beginEvent) hlow]
  refine ⟨rfl, rfl, rfl, List.map_append, fun f hf => ?_⟩
  cases f <;> first | rfl | (simp at hf)

/-- Settles O9: by the override's action, then by the board's state and plans. -/
theorem commitSelection : Obligations.CommitSelection := by
  intro b m mask
  refine ⟨fun hreman => if_pos hreman, fun hreman p hstate hplan hused => ?solved,
    fun hstate p g hgrade hstale hproduct => ?stale, fun hstate x y htrim => ?trim, fun hstate hnone => ?unsolved,
    fun hstate g hgrade hstale => ?noProduct⟩
  case solved => simp only [Board.selectCommit, if_neg hreman, hstate, hplan, if_pos hused]
  case stale =>
    have hreman : b.override.map Override.action ≠ some .reman := by simp [hgrade]
    rw [selectCommit_of_unsolved hreman hstate, commitWithoutSolution_of_stale hgrade hstale hproduct]
    exact ⟨fun hsaws => if_pos hsaws, fun hsaws => if_neg (by simp [hsaws])⟩
  case trim =>
    have hreman : b.override.map Override.action ≠ some .reman := by simp [htrim]
    rw [selectCommit_of_unsolved hreman hstate, commitWithoutSolution_of_noGrade (by simp [htrim]), unsolvedCommit, htrim]
  case unsolved =>
    rw [selectCommit_of_unsolved (by simp [hnone]) hstate, commitWithoutSolution_of_noGrade (by simp [hnone]),
      unsolvedCommit, hnone]
    rfl
  case noProduct =>
    rw [selectCommit_of_unsolved (by simp [hgrade]) hstate, commitWithoutSolution_of_noProduct hstale, unsolvedCommit,
      hgrade]

/-- Settles O11: the two hops, by which bin on the way is available first. -/
theorem binChoice : Obligations.BinChoice := by
  intro s n
  refine ⟨fun h => if_pos h, fun h0 h1 => ?one, fun h0 h1 h2 => ?two, fun h0 h1 h2 => ?none, rfl⟩ <;>
    rw [State.chooseBin, if_neg (by simp [h0])]
  case one => exact if_pos h1
  case two => simp [h1, h2]
  case none => simp [h1, h2]

end Sys2Proof.Proofs
end

section
/-! The lug window, the opening of a board, slices and defects (R11, R32 to R40). -/

namespace Sys2Proof.Machine

/-- The first index that satisfies a test: it does, and no lower one does. -/
theorem finRange_find?_eq_some {n : Nat} {p : Fin n → Bool} {i : Fin n} :
    (List.finRange n).find? p = some i ↔ p i = true ∧ ∀ j : Fin n, j < i → p j = false := by
  rw [List.find?_eq_some_iff_getElem]
  constructor
  · rintro ⟨hi, k, hk, rfl, hbefore⟩
    refine ⟨hi, fun j hj => ?_⟩
    have hjk : j.val < k := by rwa [List.getElem_finRange] at hj
    simpa using hbefore j.val hjk
  · rintro ⟨hi, hbefore⟩
    refine ⟨hi, i.val, by simp, by simp, fun j hj => ?_⟩
    simpa using hbefore ⟨j, by omega⟩ hj

/-! ### The lug window (Table 2-4) -/

variable {s : State} {h : Fin 8} {f : Frame}

/-- Tests 1 to 3 of Table 2-4 passed: the entry of the frame's lug decides. -/
theorem lugWindow_of_open (hnear : s.distance f.number < 32768)
    (hopen : ¬(s.windowW < s.distance f.number ∨ (s.entry f.number).map LugEntry.closed = some true))
    (hrun : s.running = true) :
    s.lugWindow h f =
      match s.entry f.number with
      | none => (s, .droppedOld)
      | some e => s.settleEntry h f e := by
  rw [State.lugWindow, if_neg (by omega), if_neg hopen, if_neg (by simp [hrun])] <;> rfl

theorem settleEntry_of_board {e : LugEntry} {i : Fin 64} (he : e.board = some i) :
    s.settleEntry h f e = s.offerSlice h f i := by
  rw [State.settleEntry, he]

theorem settleEntry_of_absent {e : LugEntry} (he : e.board = none) (hflag : f.flag = false) :
    s.settleEntry h f e = (s, .skipped) := by
  simp only [State.settleEntry, he, hflag, if_true]

theorem settleEntry_of_notRun {e : LugEntry} (he : e.board = none) (hflag : f.flag = true) (hline : s.lineState ≠ .run) :
    s.settleEntry h f e = (s, .skipped) := by
  simp only [State.settleEntry, he, hflag, Bool.true_eq_false, if_false, if_pos hline]

theorem settleEntry_of_present {e : LugEntry} {i : Fin 64} (he : e.board = none) (hflag : f.flag = true)
    (hline : s.lineState = .run) (hfree : s.freeBoard = some i) :
    s.settleEntry h f e = (s.openBoard e i).offerSlice h f i := by
  simp only [State.settleEntry, he, hflag, Bool.true_eq_false, if_false, hline, ne_eq, not_true, hfree]

/-! ### The opening of a board -/

/-- R11: the record that opens is the lowest-numbered FREE one. -/
theorem freeBoard_spec {i : Fin 64} (hfree : s.freeBoard = some i) :
    s.boards[i].state = .free ∧ ∀ j : Fin 64, j < i → s.boards[j].state ≠ .free := by
  obtain ⟨hi, hbefore⟩ := finRange_find?_eq_some.mp hfree
  exact ⟨by simpa using hi, fun j hj => by simpa using hbefore j hj⟩

/-- The line shows for a lug the entry that stands at its index, if that is the lug's. -/
theorem entry_congr {t : State} (hline : t.lugLine = s.lugLine) (n : Half) : t.entry n = s.entry n := by
  simp only [State.entry, hline]

theorem entry_setEntry_self {e : LugEntry} {n : Half} (he : e.lug = n) : (s.setEntry n (some e)).entry n = some e := by
  simp [State.entry, State.setEntry, he]

@[simp] theorem entry_setEntry_none (s : State) (n : Half) : (s.setEntry n none).entry n = none := by
  simp [State.entry, State.setEntry]

theorem runOf_congr {t : State} (hruns : t.runs = s.runs) (n : Half) : t.runOf n = s.runOf n := by
  simp only [State.runOf, hruns]

theorem onRun_of_some {n : Half} {r : Fin 8} (hr : s.runOf n = some r) (g : RunSlot → RunSlot) :
    s.onRun n g = s.setRun r (g s.runs.slots[r]) := by
  rw [State.onRun, hr]

theorem onRun_of_none {n : Half} (hr : s.runOf n = none) (g : RunSlot → RunSlot) : s.onRun n g = s := by
  rw [State.onRun, hr]

/-- R57: the run of a number is the one slot in use that has it, where no other in use does. -/
theorem runOf_eq_of_unique {r : Fin 8} (huse : s.runs.slots[r].state ≠ .free)
    (honly : ∀ q : Fin 8, q ≠ r → s.runs.slots[q].state ≠ .free → s.runs.slots[q].number ≠ s.runs.slots[r].number) :
    s.runOf s.runs.slots[r].number = some r := by
  refine finRange_find?_eq_some.mpr ⟨by simpa using huse, fun q hq => ?_⟩
  simpa using honly q hq.ne

theorem refs_setRefs_self (x : Banks) (k : BankId) (n : Nat) : (x.setRefs k n).refs k = n := by cases k <;> rfl

/-- R11: the two records that an opening writes, before the counts of its run and of its bank. -/
def State.openedOn (s : State) (e : LugEntry) (i : Fin 64) : State :=
  (s.setBoard i (Board.opened i e.lug s.outfeedNumber s.banks.active e.override)).setEntry e.lug
    (some { e with board := some i, override := none })

variable {e : LugEntry} {i : Fin 64}

/-- After its own records an opening writes the run, the bank and what reports them. -/
theorem openBoard_after : OnlyChanges [.runs, .banks, .stamps, .publications] (s.openedOn e i) (s.openBoard e i) := by
  unfold State.openBoard State.openedOn
  simp

theorem openBoard_runs : (s.openBoard e i).runs = ((s.openedOn e i).onRun s.outfeedNumber RunSlot.addOpened).runs := by
  have hafter : OnlyChanges [.banks, .stamps, .publications]
      ((s.openedOn e i).onRun s.outfeedNumber RunSlot.addOpened) (s.openBoard e i) := by
    unfold State.openBoard State.openedOn
    simp
  exact hafter .runs (by simp)

theorem setRefs_banks (s : State) (k : BankId) (n : Nat) : (s.setRefs k n).banks = s.banks.setRefs k n := by
  simp [State.setRefs]

end Sys2Proof.Machine

namespace Sys2Proof.Proofs

open Sys2Proof.Machine

/-- Settles O13: each test in turn, and for the last ones by the entry's board, the present flag and the line state. -/
theorem lugWindow : Obligations.LugWindow := by
  intro s h f
  refine ⟨fun hwrap => if_pos hwrap, fun hnear hshut => ?shut, fun hnear hopen hstop => ?stopped,
    fun hnear hopen hrun hnone => ?none, fun e hnear hopen hrun he => ?entry⟩
  case shut => rw [State.lugWindow, if_neg (by omega), if_pos hshut]
  case stopped => rw [State.lugWindow, if_neg (by omega), if_neg hopen, if_pos hstop]
  case none => rw [lugWindow_of_open hnear hopen hrun, hnone]
  case entry =>
    have hentry : s.lugWindow h f = s.settleEntry h f e := by rw [lugWindow_of_open hnear hopen hrun, he]
    rw [hentry]
    exact ⟨settleEntry_of_absent, fun hboard hflag hline => settleEntry_of_notRun hboard hflag (by simp [hline]),
      fun i => settleEntry_of_present, fun i => settleEntry_of_board⟩

/-- Settles O14: the record and the entry as written, and then the counts of the run and of the bank. -/
theorem boardOpens : Obligations.BoardOpens := by
  intro s e i he hfree
  have hafter := openBoard_after (s := s) (e := e) (i := i)
  refine ⟨freeBoard_spec hfree, hafter .boards (by simp), ?entry, ?refs, fun hnone => ?noRun, fun r hr => ?run,
    fun r hout huse honly => ?number, ?frame⟩
  case entry =>
    exact (entry_congr (hafter .lugLine (by simp)) _).trans (entry_setEntry_self (n := e.lug) (by rfl))
  case refs =>
    rw [State.openBoard, setRefs_banks, refs_setRefs_self]
  case noRun =>
    rw [openBoard_runs, onRun_of_none (by rwa [runOf_congr rfl])]
    rfl
  case run =>
    rw [openBoard_runs, onRun_of_some (r := r) (by rwa [runOf_congr rfl])]
    rfl
  case number =>
    have hnumber : s.outfeedNumber = s.runs.slots[r].number := by simp [State.outfeedNumber, hout]
    rw [hnumber]
    exact runOf_eq_of_unique huse honly
  case frame => simp

end Sys2Proof.Proofs
end

section
/-! Slices and defects (R35, R37 to R40): what a slice adds to its board, and what a defect entry makes of the list. -/

namespace Sys2Proof.Machine

/-! ### What measurement keeps of the boards -/

theorem closeEmpty_boards (s : State) (lug : Half) (o : Option Override) : (s.closeEmpty lug o).boards = s.boards :=
  (closeEmpty_frame lug o (by simp)).mpr (.refl [.notices, .stamps, .publications] s) .boards (by simp)

/-- R12: a close reduces and grades its board, and gives it a request; the other boards stand. -/
theorem closeBoard_boards (s : State) (i : Fin 64) : ∃ x : BoardState, (s.closeBoard i).boards = s.boards.set i
    { s.boards[i].reduce.gradeCells s.shadow with request := some .first, state := x } := by
  have hraised := forEach_raise_only (s.setBoard i (s.boards[i].reduce.gradeCells s.shadow))
    ((s.boards[i].reduce.gradeCells s.shadow).zoneNotices s.shadow) .boards (by simp)
  obtain ⟨x, hrequest⟩ := raiseRequest_boards
    ((s.setBoard i (s.boards[i].reduce.gradeCells s.shadow)).forEach
      ((s.boards[i].reduce.gradeCells s.shadow).zoneNotices s.shadow) State.raise) .first i
  refine ⟨x, (publish_boards _ _ _).trans (hrequest.trans ?_)⟩
  simp only [Same] at hraised
  rw [hraised]
  simp [State.setBoard]

/-- The slice sets and the accumulations of every board stand. -/
def MeasuredSame (s t : State) : Prop :=
  ∀ j : Fin 64, t.boards[j].sliceSets = s.boards[j].sliceSets ∧ t.boards[j].acc = s.boards[j].acc

namespace MeasuredSame

theorem refl (s : State) : MeasuredSame s s := fun _ => ⟨rfl, rfl⟩

variable {s t u : State}

theorem trans (h : MeasuredSame s t) (k : MeasuredSame t u) : MeasuredSame s u :=
  fun j => ⟨(k j).1.trans (h j).1, (k j).2.trans (h j).2⟩

theorem of_boards (h : MeasuredSame s t) (hb : u.boards = t.boards) : MeasuredSame s u :=
  fun j => by rw [hb]; exact h j

theorem setBoard (h : MeasuredSame s t) {i : Fin 64} {b : Board} (hsets : b.sliceSets = t.boards[i].sliceSets)
    (hacc : b.acc = t.boards[i].acc) : MeasuredSame s (t.setBoard i b) := by
  refine h.trans fun j => ?_
  by_cases hj : i = j
  · subst hj
    simp [hsets, hacc]
  · simp [State.setBoard, Fin.val_inj, hj]

theorem forEach {α : Type} (h : MeasuredSame s t) {xs : List α} {f : State → α → State}
    (hf : ∀ u x, MeasuredSame u (f u x)) : MeasuredSame s (t.forEach xs f) := by
  induction xs generalizing t with
  | nil => exact h
  | cons x xs ih => exact ih (h.trans (hf t x))

theorem takeDefect (s : State) (h : Fin 8) (i : Fin 64) (e : DefectEntry) : MeasuredSame s (s.takeDefect h i e) := by
  unfold State.takeDefect
  split
  · exact (refl s).setBoard rfl rfl
  · unfold State.addDefect
    dsimp only
    split_ifs
    · exact (refl s).setBoard (by rfl) (by rfl)
    · exact (refl s).setBoard (by rfl) (by rfl)
    · exact ((refl s).setBoard (by rfl) (by rfl)).of_boards (raise_boards _ _)

theorem closeBoard (s : State) (i : Fin 64) : MeasuredSame s (s.closeBoard i) := by
  obtain ⟨x, hboards⟩ := closeBoard_boards s i
  refine ((refl s).setBoard (i := i) ?_ ?_).of_boards hboards <;> simp only [Board.gradeCells, Board.reduce]

theorem closeLug (s : State) (lug : Half) : MeasuredSame s (s.closeLug lug) := by
  unfold State.closeLug
  split
  · exact refl s
  · split
    · exact refl s
    · split
      · exact fun j => closeBoard _ _ j
      · exact (refl s).of_boards (closeEmpty_boards _ _ _)

end MeasuredSame

/-! ### The defect list (R39) -/

theorem Defect.before_iff {d x : Defect} :
    d.before x = true ↔ d.cell < x.cell ∨ (d.cell = x.cell ∧ d.kind < x.kind) := by
  simp [Defect.before]

theorem Defect.samePlace_iff {d x : Defect} : d.samePlace x = true ↔ x.cell = d.cell ∧ x.kind = d.kind := by
  simp only [Defect.samePlace, Bool.and_eq_true, decide_eq_true_eq]
  omega

/-- R39: a defect whose cell and kind are listed makes the listed size the larger one. -/
theorem mergeDefect_of_listed {d x : Defect} {older younger : List Defect}
    (h : (older ++ x :: younger).Pairwise fun d x => d.before x = true) (hsame : d.samePlace x = true) :
    mergeDefect d (older ++ x :: younger) = older ++ { x with size := max x.size d.size } :: younger := by
  induction older with
  | nil => exact if_pos hsame
  | cons y ys ih =>
    obtain ⟨hy, hys⟩ := List.pairwise_cons.mp h
    have hyx := Defect.before_iff.mp (hy x (by simp))
    have hplace := Defect.samePlace_iff.mp hsame
    have hnotSame : ¬d.samePlace y = true := by rw [Defect.samePlace_iff]; omega
    have hnotBefore : ¬d.before y = true := by rw [Defect.before_iff]; omega
    rw [List.cons_append, mergeDefect, if_neg hnotSame, if_neg hnotBefore, ih hys, List.cons_append]

/-- R39: a defect whose cell and kind are not listed stands after those before it and before the others. -/
theorem mergeDefect_of_unlisted {d : Defect} {xs : List Defect} (h : xs.Pairwise fun d x => d.before x = true)
    (hnone : ∀ x ∈ xs, ¬d.samePlace x = true) :
    ∃ older younger, xs = older ++ younger ∧ (∀ x ∈ older, x.before d = true) ∧ (∀ x ∈ younger, d.before x = true) ∧
      mergeDefect d xs = older ++ d :: younger := by
  induction xs with
  | nil => exact ⟨[], [], rfl, by simp, by simp, rfl⟩
  | cons y ys ih =>
    obtain ⟨hy, hys⟩ := List.pairwise_cons.mp h
    have hplace := hnone y (by simp)
    by_cases hbefore : d.before y = true
    · refine ⟨[], y :: ys, rfl, by simp, fun x hx => ?_, by rw [mergeDefect, if_neg hplace, if_pos hbefore]; rfl⟩
      rcases List.mem_cons.mp hx with rfl | hx
      · exact hbefore
      · exact Defect.before_trans hbefore (hy x hx)
    · obtain ⟨older, younger, hxs, holder, hyounger, hmerge⟩ := ih hys fun x hx => hnone x (List.mem_cons_of_mem _ hx)
      refine ⟨y :: older, younger, by rw [hxs, List.cons_append], fun x hx => ?_, hyounger,
        by rw [mergeDefect, if_neg hplace, if_neg hbefore, hmerge, List.cons_append]⟩
      rcases List.mem_cons.mp hx with rfl | hx
      · rw [Defect.samePlace_iff] at hplace
        rw [Defect.before_iff] at hbefore ⊢
        omega
      · exact holder x hx

/-! ### Slices and defect entries -/

variable {s : State} {h : Fin 8} {f : Frame} {i : Fin 64} {e : DefectEntry}

theorem offerSlice_of_taken (hindex : f.index < s.slicesPerLug h) (hnew : f.index ∉ s.boards[i].sliceSets[h]) :
    s.offerSlice h f i = (s.addSlice h f i, .taken) := by
  rw [State.offerSlice, if_neg (by omega), if_neg hnew]

/-- R35: beyond the slice itself, what a frame does to its board leaves the measurement. -/
theorem addSlice_measured (s : State) (h : Fin 8) (f : Frame) (i : Fin 64) :
    MeasuredSame (s.setBoard i (s.boards[i].addSlice h f)) (s.addSlice h f i) := by
  have hdefects := (MeasuredSame.refl (s.setBoard i (s.boards[i].addSlice h f))).forEach
    (xs := f.defects.take f.defectCount) (f := fun t e => t.takeDefect h i e)
    fun u e => MeasuredSame.takeDefect u h i e
  unfold State.addSlice
  dsimp only
  split
  · exact hdefects.trans (MeasuredSame.closeLug _ _)
  · exact hdefects.of_boards (publish_boards _ _ _)

/-- R37: the cells of the frame's head take the frame's entries in order. -/
theorem addSlice_acc (b : Board) {c : Fin 48} {j : Nat} (hj : j < 6) (hc : c.val = 6 * h.val + j) :
    (b.addSlice h f).acc[c] = b.acc[c].add (f.cells.getD j ⟨false, 0, 0, 0⟩) := by
  have hhead : cellHead c = h := by
    apply Fin.ext
    simp only [cellHead]
    omega
  have hmod : c.val % 6 = j := by omega
  simp [Board.addSlice, hhead, hmod]

theorem addSlice_acc_other (b : Board) {c : Fin 48} (hc : c.val / 6 ≠ h.val) : (b.addSlice h f).acc[c] = b.acc[c] := by
  have hhead : cellHead c ≠ h := fun heq => hc (congrArg Fin.val heq)
  simp [Board.addSlice, hhead]

theorem takeDefect_of_ignored (hbad : 5 < e.localCell ∨ 7 < e.kind) :
    s.takeDefect h i e = s.setBoard i { s.boards[i] with ignored := satAdd s.boards[i].ignored 1 } := if_pos hbad

theorem takeDefect_of_known (hcell : e.localCell ≤ 5) (hkind : e.kind ≤ 7) :
    s.takeDefect h i e = s.addDefect i ⟨6 * h.val + e.localCell, e.kind, e.size⟩ := if_neg (by omega)

theorem addDefect_of_room {d : Defect}
    (hroom : (s.boards[i].defects.any d.samePlace || decide (s.boards[i].defects.length < 64)) = true) :
    s.addDefect i d = s.setBoard i { s.boards[i] with defects := mergeDefect d s.boards[i].defects } := if_pos hroom

theorem addDefect_of_full {d : Defect} (hnone : s.boards[i].defects.any d.samePlace = false)
    (hfull : 64 ≤ s.boards[i].defects.length) :
    s.addDefect i d =
      if s.boards[i].overflow then s.setBoard i { s.boards[i] with overflow := true }
      else (s.setBoard i { s.boards[i] with overflow := true }).raise (.defectOverflow s.boards[i].lug i.val) := by
  have hroom : ¬(s.boards[i].defects.any d.samePlace || decide (s.boards[i].defects.length < 64)) = true := by
    rw [hnone, decide_eq_false (by omega)]
    decide
  rw [State.addDefect, if_neg hroom]

end Sys2Proof.Machine

namespace Sys2Proof.Proofs

open Sys2Proof.Machine

/-- R35 and R37: what a frame that is taken does to the measurement of its board, and what follows. -/
theorem slice_taken (s : State) (h : Fin 8) (f : Frame) (i : Fin 64) :
    let t := s.addSlice h f i
    t.boards[i].sliceSets = s.boards[i].sliceSets.set h (s.boards[i].sliceSets[h] ++ [f.index]) ∧
    (∀ (c : Fin 48) (j : Nat), j < 6 → c.val = 6 * h.val + j →
      t.boards[i].acc[c] = s.boards[i].acc[c].add (f.cells.getD j ⟨false, 0, 0, 0⟩)) ∧
    (∀ c : Fin 48, c.val / 6 ≠ h.val → t.boards[i].acc[c] = s.boards[i].acc[c]) ∧
    s.boards[i].addSlice h f = { s.boards[i] with sliceSets := t.boards[i].sliceSets, acc := t.boards[i].acc } := by
  obtain ⟨hsets, hacc⟩ := addSlice_measured s h f i i
  have hself : (s.setBoard i (s.boards[i].addSlice h f)).boards[i] = s.boards[i].addSlice h f := by
    simp [State.setBoard]
  rw [hself] at hsets hacc
  dsimp only
  rw [hsets, hacc]
  exact ⟨rfl, fun c j hj hc => addSlice_acc _ hj hc, fun c hc => addSlice_acc_other _ hc, rfl⟩

/-- Settles O15: a slice by the tests of R35, and a defect entry by its form and by the list it meets. -/
theorem sliceOffered : Obligations.SliceOffered := by
  refine ⟨fun s h f i => ⟨fun hindex => if_pos hindex, fun hindex hgiven => ?given, fun hindex hnew => ?taken⟩,
    fun s h i e hordered => ⟨fun hbad => ?ignored, fun hcell hkind => ?known⟩⟩
  case given => rw [State.offerSlice, if_neg (by omega), if_pos hgiven]
  case taken =>
    obtain ⟨hsets, hacc, hothers, hboard⟩ := slice_taken s h f i
    rw [offerSlice_of_taken hindex hnew]
    refine ⟨rfl, hsets, fun c j hj hc => ?_, hothers, s.setBoard i (s.boards[i].addSlice h f), ⟨?_, ?_⟩, rfl⟩
    · rw [hacc c j hj hc, List.getD_eq_getElem?_getD]
      cases f.cells[j]? with
      | none => rfl
      | some e => rfl
    · rw [← hboard]
      rfl
    · simp
  case ignored =>
    rw [takeDefect_of_ignored hbad]
    exact ⟨rfl, by simp⟩
  case known =>
    obtain ⟨hpairwise, -⟩ := hordered i
    rw [takeDefect_of_known hcell hkind]
    refine ⟨fun older x younger hlist hsame => ?listed, fun hnone hroom => ?inserted, fun hnone hfull => ?refused⟩
    case listed =>
      have hplace : Defect.samePlace ⟨6 * h.val + e.localCell, e.kind, e.size⟩ x = true := Defect.samePlace_iff.mpr hsame
      rw [hlist] at hpairwise
      have hany : s.boards[i].defects.any (Defect.samePlace ⟨6 * h.val + e.localCell, e.kind, e.size⟩) = true :=
        List.any_eq_true.mpr ⟨x, hlist ▸ by simp, hplace⟩
      rw [addDefect_of_room (by rw [hany, Bool.true_or]), hlist, mergeDefect_of_listed hpairwise hplace]
      exact ⟨rfl, by simp⟩
    case inserted =>
      obtain ⟨older, younger, hlist, holder, hyounger, hmerge⟩ := mergeDefect_of_unlisted hpairwise
        fun x hx => mt Defect.samePlace_iff.mp (hnone x hx)
      rw [addDefect_of_room (by rw [decide_eq_true hroom, Bool.or_true]), hmerge]
      exact ⟨older, younger, hlist, fun x hx => Defect.before_iff.mp (holder x hx),
        fun x hx => Defect.before_iff.mp (hyounger x hx), rfl, by simp⟩
    case refused =>
      have hany : s.boards[i].defects.any (Defect.samePlace ⟨6 * h.val + e.localCell, e.kind, e.size⟩) = false :=
        List.any_eq_false.mpr fun x hx => mt Defect.samePlace_iff.mp (hnone x hx)
      rw [addDefect_of_full hany hfull]
      split
      · exact ⟨rfl, rfl, by simp⟩
      · exact ⟨raise_boards _ _, raise_notices_congr (by rfl) (by rfl) _, by simp⟩

end Sys2Proof.Proofs
end

section
/-! The raising and the storing of notices (R178, R179). -/

namespace Sys2Proof.Machine

variable {s : State} {n : Fin 2} {x : Notice}

/-- A ring after a notice is stored in it (R179, step 2). -/
def NoticeRing.stored (r : NoticeRing) (x : Notice) (lost : Half) : NoticeRing :=
  { r with slots := r.slots.set (noticeSlot r.next) (some (x, r.next)), next := r.next + 1, held := r.held + 1, lost := lost }

/-- A full ring after it loses a notice (R179, step 3). -/
def NoticeRing.lostOne (r : NoticeRing) : NoticeRing :=
  { r with lost := if r.lost = BitVec.allOnes 16 then r.lost else r.lost + 1 }

theorem storeNotice_ring (s : State) (n : Fin 2) (x : Notice) (lost : Half) :
    (s.storeNotice n x lost).notices[n] = s.notices[n].stored x lost := by
  rw [storeNotice_notices]
  exact Vector.getElem_set_self n.isLt

theorem loseNotice_ring (s : State) (n : Fin 2) : (s.loseNotice n).notices[n] = s.notices[n].lostOne := by
  rw [loseNotice_notices, NoticeRing.lostOne]
  split
  · rfl
  · exact Vector.getElem_set_self n.isLt

/-- R179: a notice is stored in, or lost from, the one ring it is routed to. -/
theorem storeNotice_other {k : Fin 2} (hk : k ≠ n) (lost : Half) : (s.storeNotice n x lost).notices[k] = s.notices[k] := by
  rw [storeNotice_notices]
  exact Vector.getElem_set_ne _ _ fun h => hk (Fin.ext h.symm)

theorem loseNotice_other {k : Fin 2} (hk : k ≠ n) : (s.loseNotice n).notices[k] = s.notices[k] := by
  rw [loseNotice_notices]
  split
  · rfl
  · exact Vector.getElem_set_ne _ _ fun h => hk (Fin.ext h.symm)

/-! ### The three ways of R179 -/

theorem routeNotice_of_room (hroom : s.notices[n].held < 32) (hlost : s.notices[n].lost = 0) :
    s.routeNotice n x = s.storeNotice n x 0 := by
  have hnone : ¬(s.notices[n].lost ≠ 0 ∧ s.notices[n].held < 32) := fun h => h.1 hlost
  simp only [State.routeNotice, if_neg hnone, if_pos hroom]
  rw [hlost]

/-- With losses waiting a LOST notice is stored first, and the notice itself where there is room for it yet. -/
theorem routeNotice_of_losses (hroom : s.notices[n].held < 32) (hlost : s.notices[n].lost ≠ 0) :
    s.routeNotice n x =
      if s.notices[n].held < 31 then (s.storeNotice n (.lost n.val s.notices[n].lost) 0).storeNotice n x 0
      else (s.storeNotice n (.lost n.val s.notices[n].lost) 0).loseNotice n := by
  have hboth : s.notices[n].lost ≠ 0 ∧ s.notices[n].held < 32 := ⟨hlost, hroom⟩
  simp only [State.routeNotice, if_pos hboth, storeNotice_ring, NoticeRing.stored]
  congr 1
  rw [eq_iff_iff]
  omega

theorem routeNotice_of_full (hfull : 32 ≤ s.notices[n].held) : s.routeNotice n x = s.loseNotice n := by
  have hnone : ¬(s.notices[n].lost ≠ 0 ∧ s.notices[n].held < 32) := by omega
  have hroom : ¬s.notices[n].held < 32 := by omega
  simp only [State.routeNotice, if_neg hnone, if_neg hroom]

/-- R182: the attention output waits for memory's answer, and the other ring is not touched. -/
theorem routeNotice_attn (s : State) (n : Fin 2) (x : Notice) : (s.routeNotice n x).notices[n].attn = s.notices[n].attn := by
  obtain hroom | hfull := Nat.lt_or_ge s.notices[n].held 32
  · by_cases hlost : s.notices[n].lost = 0
    · rw [routeNotice_of_room hroom hlost, storeNotice_ring]
      rfl
    · rw [routeNotice_of_losses hroom hlost]
      split
      · rw [storeNotice_ring, storeNotice_ring]
        rfl
      · rw [loseNotice_ring, storeNotice_ring]
        rfl
  · rw [routeNotice_of_full hfull, loseNotice_ring]
    rfl

theorem routeNotice_other {k : Fin 2} (hk : k ≠ n) : (s.routeNotice n x).notices[k] = s.notices[k] := by
  obtain hroom | hfull := Nat.lt_or_ge s.notices[n].held 32
  · by_cases hlost : s.notices[n].lost = 0
    · rw [routeNotice_of_room hroom hlost, storeNotice_other hk]
    · rw [routeNotice_of_losses hroom hlost]
      split
      · rw [storeNotice_other hk, storeNotice_other hk]
      · rw [loseNotice_other hk, storeNotice_other hk]
  · rw [routeNotice_of_full hfull, loseNotice_other hk]

end Sys2Proof.Machine

namespace Sys2Proof.Proofs

open Sys2Proof.Machine

/-- Settles O55: a raise by the route of its kind, and a storing by the room of its ring and the losses that wait. -/
theorem noticeStored : Obligations.NoticeStored := by
  refine ⟨fun s x k hk => ?raise, fun s n x => ⟨fun hroom hlost => ?room, fun hroom hlost => ?both, fun hheld hlost => ?last,
    fun hfull => ?full, routeNotice_attn s n x, fun k hk => routeNotice_other hk, by simp⟩⟩
  case raise =>
    obtain rfl : routeIndex x.code = k := routeIndex_of_eq_succ hk
    exact ⟨fun hroute => by rw [State.raise, hroute], fun hroute => by rw [State.raise, hroute],
      fun hroute => by rw [State.raise, hroute]⟩
  case room =>
    rw [routeNotice_of_room hroom hlost, storeNotice_ring]
    exact ⟨rfl, rfl, rfl, rfl⟩
  case both =>
    rw [routeNotice_of_losses (by omega) hlost, if_pos hroom, storeNotice_ring, storeNotice_ring]
    exact ⟨rfl, by simp only [NoticeRing.stored]; bv_omega, rfl, rfl⟩
  case last =>
    rw [routeNotice_of_losses (by omega) hlost, if_neg (by omega), loseNotice_ring, storeNotice_ring]
    exact ⟨by simp only [NoticeRing.lostOne, NoticeRing.stored, hheld], rfl, rfl, rfl⟩
  case full =>
    rw [routeNotice_of_full hfull, loseNotice_ring]
    rfl

end Sys2Proof.Proofs
end

section
/-! What a publication writes (R155): the length of each record's image, its header word, and the fields of the status
block and of the statistics. -/

namespace Sys2Proof.Machine

/-! ### The sizes of the images -/

theorem overrideBytes_length (o : Option Override) : (overrideBytes o).length = 3 := by
  cases o <;> rfl

theorem planBytes_length (p : Option Plan) : (planBytes p).length = 16 := by
  cases p with
  | none => rfl
  | some p => cases h : p.overrideUsed <;> simp [planBytes, h]

theorem committedBytes_length (p : Option CommittedPlan) : (committedBytes p).length = 12 := by
  cases p <;> rfl

theorem cellBytes_length (ds : List Defect) (c : Nat) (x : Cell) : (cellBytes ds c x).length = 8 := rfl

/-- Blocks of one length, laid one after the other. -/
theorem flatten_length_of_blocks {α : Type} {n : Nat} {f : α → List Byte} (hf : ∀ x, (f x).length = n) (xs : List α) :
    (xs.map f).flatten.length = n * xs.length := by
  have hlengths : (xs.map f).map List.length = List.replicate xs.length n := by simp [Function.comp_def, hf]
  rw [List.length_flatten, hlengths, List.sum_replicate, smul_eq_mul, Nat.mul_comm]

/-- Of blocks of one length, laid one after the other, the bytes of block i. -/
theorem bytesAt_flatten {α : Type} {n : Nat} {f : α → List Byte} (hf : ∀ x, (f x).length = n) (xs : List α) (i : Nat)
    (hi : i < xs.length) : bytesAt (xs.map f).flatten (n * i) n = f xs[i] := by
  induction xs generalizing i with
  | nil => cases hi
  | cons x xs ih =>
    cases i with
    | zero => simp [bytesAt, ← hf x]
    | succ i =>
      have hskip : (f x ++ (xs.map f).flatten).drop (n * (i + 1)) = (xs.map f).flatten.drop (n * i) := by
        rw [Nat.mul_succ, Nat.add_comm, ← List.drop_drop, ← hf x, List.drop_left]
      have hrest := ih i (Nat.lt_of_succ_lt_succ hi)
      rw [bytesAt] at hrest ⊢
      rw [List.map_cons, List.flatten_cons, hskip, hrest, List.getElem_cons_succ]

theorem bytesAt_append {xs ys : List Byte} {k : Nat} (h : xs.length ≤ k) (n : Nat) :
    bytesAt (xs ++ ys) k n = bytesAt ys (k - xs.length) n := by
  rw [bytesAt, bytesAt, List.drop_append, List.drop_eq_nil_of_le h, List.nil_append]

theorem bytesAt_append_left {xs ys : List Byte} {k n : Nat} (h : k + n ≤ xs.length) :
    bytesAt (xs ++ ys) k n = bytesAt xs k n := by
  rw [bytesAt, bytesAt, List.drop_append_of_le_length (by omega), List.take_append_of_le_length (by simp; omega)]

theorem switchOutcome_bytes_length (x : SwitchOutcome) : x.bytes.length ≤ 8 := by
  cases x <;> simp [SwitchOutcome.bytes]

theorem notice_detail_length (n : Notice) : n.detail.length = 8 := by
  refine fillTo_length 8 _ ?_
  cases n with
  | bankSwitched k x => exact switchOutcome_bytes_length x
  | _ => simp

theorem boardImage_length (stamp : Half) (credit : Option Credit) (b : Board) (h : b.defects.length ≤ 64) :
    (boardImage stamp credit b).length = 512 := by
  have hcells := flatten_length_of_blocks (fun c : Fin 48 => cellBytes_length b.defects c.val b.cells[c]) (List.finRange 48)
  have hdefects := fillTo_length 64 (b.defects.map fun d => BitVec.ofNat 8 d.size) (by simpa using h)
  simp only [boardImage, List.length_append, leBytes_length, overrideBytes_length, planBytes_length, committedBytes_length,
    hcells, hdefects, List.length_finRange, List.length_cons, List.length_nil]

/-- Table 12-1: every record but a board record has its size whatever it holds. -/
theorem image_length {s : State} {r : Record} (h : ∀ i, r = .board i → s.boards[i].defects.length ≤ 64) :
    (s.image r).length = r.size := by
  have hword := fun k : Word => leBytes_length 4 k.toNat
  have hquad := fun k : Quad => leBytes_length 8 k.toNat
  cases r with
  | board i => exact boardImage_length _ _ _ (h i rfl)
  | notice ring slot =>
    simp only [State.image, Record.size, noticeImage]
    split
    · simp
    · simp [notice_detail_length]
  | status =>
    refine fillTo_length _ _ ?_
    rw [List.length_append, List.length_append, List.length_append, List.length_append, fillTo_length _ _ (by simp)]
    split <;> simp
  | head k =>
    refine fillTo_length _ _ ?_
    simp [flatten_length_of_blocks hword]
  | run i =>
    refine fillTo_length _ _ ?_
    simp [flatten_length_of_blocks hword, flatten_length_of_blocks hquad]
  | stats =>
    refine fillTo_length _ _ ?_
    simp [flatten_length_of_blocks hword]
  | trim i => exact fillTo_length _ _ (by simp [slotHeader])
  | sort i => exact fillTo_length _ _ (by simp [slotHeader])
  | bin n => exact fillTo_length _ _ (by simp)
  | log i => exact fillTo_length _ _ (by simp)

/-- Chapter 12.5: the first eight bytes of a record are its header word. -/
theorem image_header (s : State) (r : Record) : (s.image r).take 8 = s.headerWord r := by
  cases r with
  | notice ring slot =>
    simp only [State.image, State.headerWord, noticeImage]
    generalize s.notices[ring].slots[slot] = held
    cases held with
    | none => rfl
    | some shown => rfl
  | _ => rfl

/-- What a record shows does not depend on the publications under way. -/
theorem image_enqueue (s : State) (p : Publication) (r : Record) : (s.enqueue p).image r = s.image r := by
  cases r <;> rfl

theorem size_le_of_oneBlock {r : Record} (h : r.bodyBlocks = 0) : r.size ≤ 64 := by
  cases r <;> simp [Record.bodyBlocks, Record.size] at h ⊢

/-! ### The fields of the status block (Table 12-5) -/

/-- The named bytes before 40H of the status block. -/
def State.statusHead (s : State) : List Byte :=
  leBytes 2 (s.stamp .status).toNat ++ [s.lineState.code, 0] ++ leBytes 2 s.lc.toNat ++ zeroBytes 2
    ++ [BitVec.ofNat 8 s.windowW, BitVec.ofNat 8 s.commitC, BitVec.ofNat 8 s.sortS, 0]
    ++ leBytes 2 s.cmdRing.consumer.toNat ++ leBytes 2 s.ovrRing.consumer.toNat ++ leBytes 2 s.sawMask.toNat
    ++ leBytes 2 ((s.runs.infeed.map fun r => s.runs.slots[r].number.toNat).getD 0)
    ++ leBytes 2 ((s.runs.outfeed.map fun r => s.runs.slots[r].number.toNat).getD 0)

/-- The four bytes that show the pending switch. -/
def State.switchBytes (s : State) : List Byte :=
  match s.banks.pendingSwitch with
  | none => [0xFF, 0] ++ leBytes 2 (Config.noPendingLug s.path.event (s.stamp .status).toNat).toNat
  | some (k, n) => [k.code, 0] ++ leBytes 2 n.toNat

/-- The eight bytes that show a notice ring. -/
def State.ringBytes (s : State) (n : Fin 2) : List Byte :=
  leBytes 2 s.notices[n].next.toNat ++ [BitVec.ofNat 8 s.notices[n].held, 0] ++ leBytes 2 s.notices[n].lost.toNat
    ++ zeroBytes 2

/-- The named bytes from 40H of the status block. -/
def State.statusTail (s : State) : List Byte :=
  [ s.banks.stateA.code, BitVec.ofNat 8 s.banks.refsA, s.banks.stateB.code, BitVec.ofNat 8 s.banks.refsB ]
    ++ s.switchBytes ++ s.ringBytes 0 ++ s.ringBytes 1

theorem image_status (s : State) : s.image .status = fillTo 4096 (fillTo 0x40 s.statusHead ++ s.statusTail) := by
  simp only [State.statusTail, State.switchBytes, ← List.append_assoc]
  cases h : s.banks.pendingSwitch <;> simp only [State.image, statusImage, h] <;> rfl

theorem switchBytes_length (s : State) : s.switchBytes.length = 4 := by
  unfold State.switchBytes
  split <;> rfl

theorem statusTail_length (s : State) : s.statusTail.length = 24 := by
  simp only [State.statusTail, List.length_append, switchBytes_length]
  rfl

theorem image_status_head {s : State} {k n : Nat} {xs : List Byte} (h : k + n ≤ 22) (hxs : bytesAt s.statusHead k n = xs) :
    bytesAt (s.image .status) k n = xs := by
  have hhead : s.statusHead.length = 22 := rfl
  rw [image_status, fillTo, fillTo, bytesAt_append_left (by simp; omega), bytesAt_append_left (by simp; omega),
    bytesAt_append_left (by omega), hxs]

theorem image_status_tail {s : State} {k n : Nat} (h : k + n ≤ 24) :
    bytesAt (s.image .status) (0x40 + k) n = bytesAt s.statusTail k n := by
  have hhead : (fillTo 0x40 s.statusHead).length = 0x40 := rfl
  have htail := statusTail_length s
  rw [image_status, fillTo, bytesAt_append_left (by rw [List.length_append]; omega), bytesAt_append (by omega), hhead,
    Nat.add_sub_cancel_left]

theorem statusTail_rings {s : State} {k n : Nat} (h : 8 ≤ k) :
    bytesAt s.statusTail k n = bytesAt (s.ringBytes 0 ++ s.ringBytes 1) (k - 8) n := by
  rw [State.statusTail, List.append_assoc, bytesAt_append (by simpa [switchBytes_length] using h)]
  simp [switchBytes_length]

/-- Chapter 12.5: counter i of the statistics stands at 08H + 4 i. -/
theorem image_stats (s : State) (i : Fin 24) :
    bytesAt (s.image .stats) (8 + 4 * i.val) 4 = leBytes 4 s.stats[i].toNat := by
  have hwords := bytesAt_flatten (fun k : Word => leBytes_length 4 k.toNat) s.stats.toList i.val (by simp)
  have hlength := flatten_length_of_blocks (fun k : Word => leBytes_length 4 k.toNat) s.stats.toList
  rw [Vector.length_toList] at hlength
  simp only [State.image, statsImage, fillTo]
  rw [bytesAt_append_left (by simp [hlength]; omega), bytesAt_append (by simp)]
  simpa using hwords

end Sys2Proof.Machine

namespace Sys2Proof.Proofs

open Sys2Proof.Machine

/-- Settles O54: the writes by blocks, and each field by its place in the image. -/
theorem publicationWritten : Obligations.PublicationWritten := by
  refine ⟨fun s owner r hrest => ?writes, fun s r => ⟨fun hordered => image_length fun i _ => (hordered i).2,
    image_header s r, ?status, ?stats⟩⟩
  case writes =>
    have hpublish : s.publish owner r = _ := if_neg hrest
    refine ⟨_, by rw [hpublish]; rfl, recordWrites_length _ _ _, fun i hi => ?_, ?_, fun q => ?_, by simp⟩
    · rw [recordWrites_body _ _ _ _ hi, hpublish, image_enqueue]
    · rw [recordWrites_header _ _ _ fun h0 => ?_, hpublish, image_enqueue]
      rw [image_length fun i hr => by rw [hr] at h0; cases h0]
      exact size_le_of_oneBlock h0
    · simp [stamp_publish, hrest]
  case status =>
    rintro rfl
    refine ⟨image_status_head (by decide) rfl, image_status_head (by decide) rfl, image_status_head (by decide) rfl,
      image_status_head (by decide) rfl, image_status_tail (k := 0) (by decide), fun hnone => ?_, fun k lug hsome => ?_,
      fun n => ?_⟩
    · rw [image_status_tail (k := 4) (by decide), State.statusTail, State.switchBytes, hnone]
      rfl
    · rw [image_status_tail (k := 4) (by decide), image_status_tail (k := 6) (by decide), State.statusTail,
        State.switchBytes, hsome]
      exact ⟨rfl, rfl⟩
    · match n with
      | 0 => exact (image_status_tail (k := 8) (n := 6) (by decide)).trans (statusTail_rings (by decide))
      | 1 => exact (image_status_tail (k := 16) (n := 6) (by decide)).trans (statusTail_rings (by decide))
  case stats =>
    rintro rfl
    exact image_stats s

end Sys2Proof.Proofs
end

section
/-! The grades of cells and of segments (R65 to R67, R69, R71 to R77). -/

namespace Sys2Proof.Machine

/-! ### The largest and the smallest of a list -/

/-- The largest of a start value and the values of a list: at least each of them, and one of them. -/
theorem foldl_max_spec {α : Type} (f : α → Nat) (xs : List α) (a : Nat) :
    a ≤ xs.foldl (fun g x => max g (f x)) a ∧ (∀ x ∈ xs, f x ≤ xs.foldl (fun g x => max g (f x)) a) ∧
      (xs.foldl (fun g x => max g (f x)) a = a ∨ ∃ x ∈ xs, xs.foldl (fun g x => max g (f x)) a = f x) := by
  induction xs generalizing a with
  | nil => exact ⟨Nat.le_refl a, by simp, .inl rfl⟩
  | cons y ys ih =>
    obtain ⟨hstart, hall, hone⟩ := ih (max a (f y))
    rw [List.foldl_cons]
    refine ⟨Nat.le_trans (Nat.le_max_left _ _) hstart, fun x hx => ?_, ?_⟩
    · rcases List.mem_cons.mp hx with rfl | hx
      · exact Nat.le_trans (Nat.le_max_right _ _) hstart
      · exact hall x hx
    · rcases hone with hone | ⟨x, hx, hone⟩
      · rcases Nat.le_total a (f y) with hle | hle
        · exact .inr ⟨y, by simp, by rw [hone, Nat.max_eq_right hle]⟩
        · exact .inl (by rw [hone, Nat.max_eq_left hle])
      · exact .inr ⟨x, by simp [hx], hone⟩

/-- The smallest of a start value and the values of a list: at most each of them, and one of them. -/
theorem foldl_min_spec {α : Type} (f : α → Nat) (xs : List α) (a : Nat) :
    xs.foldl (fun g x => min g (f x)) a ≤ a ∧ (∀ x ∈ xs, xs.foldl (fun g x => min g (f x)) a ≤ f x) ∧
      (xs.foldl (fun g x => min g (f x)) a = a ∨ ∃ x ∈ xs, xs.foldl (fun g x => min g (f x)) a = f x) := by
  induction xs generalizing a with
  | nil => exact ⟨Nat.le_refl a, by simp, .inl rfl⟩
  | cons y ys ih =>
    obtain ⟨hstart, hall, hone⟩ := ih (min a (f y))
    rw [List.foldl_cons]
    refine ⟨Nat.le_trans hstart (Nat.min_le_left _ _), fun x hx => ?_, ?_⟩
    · rcases List.mem_cons.mp hx with rfl | hx
      · exact Nat.le_trans hstart (Nat.min_le_right _ _)
      · exact hall x hx
    · rcases hone with hone | ⟨x, hx, hone⟩
      · rcases Nat.le_total a (f y) with hle | hle
        · exact .inl (by rw [hone, Nat.min_eq_left hle])
        · exact .inr ⟨y, by simp, by rw [hone, Nat.min_eq_right hle]⟩
      · exact .inr ⟨x, by simp [hx], hone⟩

/-! ### The grade of a cell (Table 4-2) -/

section Cell

variable {m : List Host.Cell} {k : BankId} {defects : List Defect} {c : Nat} {x : Cell}

theorem rulesGrade_eq : rulesGrade m k x =
    ((List.range 16).filter fun i => ruleFires m k (bankRule m k i) x).foldl
      (fun g i => max g (bankRule m k i).grade) 0 := by
  rw [List.foldl_filter]
  rfl

/-- R67: the rules that fire bound the grade from below, and one of them gives it. -/
theorem rulesGrade_spec : (∀ r, r < 16 → ruleFires m k (bankRule m k r) x = true → (bankRule m k r).grade ≤ rulesGrade m k x) ∧
    (rulesGrade m k x = 0 ∨
      ∃ r, r < 16 ∧ ruleFires m k (bankRule m k r) x = true ∧ rulesGrade m k x = (bankRule m k r).grade) := by
  rw [rulesGrade_eq]
  obtain ⟨-, hall, hone⟩ := foldl_max_spec (fun i => (bankRule m k i).grade)
    ((List.range 16).filter fun i => ruleFires m k (bankRule m k i) x) 0
  refine ⟨fun r hr hfires => hall r (by simp [hr, hfires]), hone.imp_right fun ⟨r, hr, heq⟩ => ?_⟩
  rw [List.mem_filter, List.mem_range] at hr
  exact ⟨r, hr.1, hr.2, heq⟩

theorem cellGrade_of_known (hpresent : x.present = true) (hknown : x.known = true) :
    cellGrade m k defects c x =
      (defects.filter fun d => decide (d.cell = c)).foldl (fun g d => max g (defectGrade m k d)) (rulesGrade m k x) := by
  simp only [cellGrade, hpresent, hknown, if_true]

/-- R69: the defect grade is the smallest grade whose limit admits the size. -/
theorem defectGrade_spec (d : Defect) : defectGrade m k d ≤ 7 ∧
    (∀ g, g < defectGrade m k d → bankMaxSize m k d.kind g < d.size) ∧
    (defectGrade m k d ≤ 6 → d.size ≤ bankMaxSize m k d.kind (defectGrade m k d)) := by
  unfold defectGrade
  cases hfind : (List.range 7).find? fun g => decide (d.size ≤ bankMaxSize m k d.kind g) with
  | none =>
    simp only [List.find?_eq_none, List.mem_range, decide_eq_true_eq, Nat.not_le] at hfind
    exact ⟨Nat.le_refl 7, hfind, fun h => absurd h (by decide)⟩
  | some n =>
    obtain ⟨hn, hlt, hbefore⟩ := List.find?_range_eq_some.mp hfind
    have hlt : n < 7 := by simpa using hlt
    exact ⟨by simp only [Option.getD_some]; omega, fun g hg => by simpa using hbefore g hg, fun _ => by simpa using hn⟩

end Cell

/-! ### Limit rules (Table 4-3) -/

theorem ruleFires_eq {m : List Host.Cell} {k : BankId} {r : LimitRule} {x : Cell} {v : Nat}
    (hv : (r.quantity = 1 ∧ v = x.t) ∨ (r.quantity = 2 ∧ v = x.w) ∨ (r.quantity = 3 ∧ v = x.n)) :
    ruleFires m k r x = conditionHolds r.condition v
      (min (bankBoundary m k r.quantity r.a) (bankBoundary m k r.quantity r.b))
      (max (bankBoundary m k r.quantity r.a) (bankBoundary m k r.quantity r.b)) := by
  have hquantity : x.quantity r.quantity = v := by
    rcases hv with ⟨hq, rfl⟩ | ⟨hq, rfl⟩ | ⟨hq, rfl⟩ <;> rw [hq] <;> rfl
  rw [ruleFires, if_neg (by omega), hquantity]

/-- R66: each condition as the set of positions at which it holds: below, between or above the two boundaries. -/
theorem conditionHolds_spec {c v lo hi : Nat} (hle : lo ≤ hi) :
    (c = 0 → conditionHolds c v lo hi = false) ∧
    (c = 1 → (conditionHolds c v lo hi = true ↔ (lo ≤ v ∧ v ≤ hi) ∨ hi < v)) ∧
    (c = 2 → (conditionHolds c v lo hi = true ↔ v < lo ∨ hi < v)) ∧
    (c = 3 → (conditionHolds c v lo hi = true ↔ v < lo ∨ (lo ≤ v ∧ v ≤ hi))) ∧
    (c = 4 → conditionHolds c v lo hi = true) ∧
    (c = 5 → (conditionHolds c v lo hi = true ↔ v < lo)) ∧
    (c = 6 → (conditionHolds c v lo hi = true ↔ lo ≤ v ∧ v ≤ hi)) ∧
    (c = 7 → (conditionHolds c v lo hi = true ↔ hi < v)) := by
  refine ⟨?_, ?_, ?_, ?_, ?_, ?_, ?_, ?_⟩ <;> rintro rfl <;> simp [conditionHolds] <;> omega

/-! ### Segments (R71 to R77) -/

variable {b : Board} {m : List Host.Cell} {x y : Fin 13}

/-- The cells of a segment are those from 4a to 4b - 1. -/
theorem mem_segment (hxy : x < y) {z : Cell} :
    z ∈ b.segment x.val y.val ↔ ∃ c : Fin 48, (4 * x.val ≤ c.val ∧ c.val < 4 * y.val) ∧ z = b.cells[c] := by
  have hy := y.isLt
  have hlt : x.val < y.val := hxy
  unfold Board.segment
  rw [List.mem_iff_getElem]
  simp only [List.getElem_take, List.getElem_drop, Vector.getElem_toList, List.length_take, List.length_drop,
    Vector.length_toList]
  constructor
  · rintro ⟨i, hi, rfl⟩
    exact ⟨⟨4 * x.val + i, by omega⟩, ⟨by simp only; omega, by simp only; omega⟩, rfl⟩
  · rintro ⟨c, ⟨hlo, hhi⟩, rfl⟩
    refine ⟨c.val - 4 * x.val, by omega, ?_⟩
    simp only [Nat.add_sub_cancel' hlo]
    rfl

/-- R73: each grade passed on the way up is one whose limit the count exceeds; the grade reached is not. -/
theorem escalate_spec (m : List Host.Cell) (k : BankId) (n : Nat) : ∀ fuel g, 7 ≤ fuel + g →
    g ≤ escalate m k n fuel g ∧
    (∀ j, g ≤ j → j < escalate m k n fuel g → j ≤ 6 ∧ bankMaxCount m k j < n) ∧
    (escalate m k n fuel g ≤ 6 → n ≤ bankMaxCount m k (escalate m k n fuel g)) := by
  intro fuel
  induction fuel with
  | zero => exact fun g hg => ⟨Nat.le_refl g, fun j hj hlt => absurd hlt (Nat.not_lt.mpr hj), fun hle => by
      simp only [escalate] at hle
      omega⟩
  | succ fuel ih =>
    intro g hg
    rw [escalate]
    split
    case isTrue hup =>
      obtain ⟨hle, hpassed, hend⟩ := ih (g + 1) (by omega)
      refine ⟨by omega, fun j hj hlt => ?_, hend⟩
      rcases Nat.eq_or_lt_of_le hj with rfl | hj
      · exact hup
      · exact hpassed j hj hlt
    case isFalse hstop =>
      exact ⟨Nat.le_refl g, fun j hj hlt => absurd hlt (Nat.not_lt.mpr hj), fun hle => by omega⟩

/-- R72: the base grade is the largest of the segment's cells, and of the overflow grade under DEFECT_OVERFLOW. -/
theorem baseGrade_spec (hxy : x < y) :
    (∀ c : Fin 48, 4 * x.val ≤ c.val ∧ c.val < 4 * y.val → b.cells[c].grade ≤ b.baseGrade m x.val y.val) ∧
    (b.overflow = true → bankOverflowGrade m b.bank ≤ b.baseGrade m x.val y.val) ∧
    ((∃ c : Fin 48, (4 * x.val ≤ c.val ∧ c.val < 4 * y.val) ∧ b.baseGrade m x.val y.val = b.cells[c].grade) ∨
      (b.overflow = true ∧ b.baseGrade m x.val y.val = bankOverflowGrade m b.bank)) := by
  obtain ⟨-, hall, hone⟩ := foldl_max_spec Cell.grade (b.segment x.val y.val) 0
  have hcells : ∀ c : Fin 48, 4 * x.val ≤ c.val ∧ c.val < 4 * y.val →
      b.cells[c].grade ≤ (b.segment x.val y.val).foldl (fun g c => max g c.grade) 0 :=
    fun c hc => hall _ ((mem_segment hxy).mpr ⟨c, hc, rfl⟩)
  have hsome : ∃ c : Fin 48, (4 * x.val ≤ c.val ∧ c.val < 4 * y.val) ∧
      (b.segment x.val y.val).foldl (fun g c => max g c.grade) 0 = b.cells[c].grade := by
    rcases hone with hzero | ⟨z, hz, heq⟩
    · have hlt : x.val < y.val := hxy
      have hy := y.isLt
      have hfirst := hcells ⟨4 * x.val, by omega⟩ ⟨Nat.le_refl _, by simp only; omega⟩
      exact ⟨⟨4 * x.val, by omega⟩, ⟨Nat.le_refl _, by simp only; omega⟩, by omega⟩
    · obtain ⟨c, hc, rfl⟩ := (mem_segment hxy).mp hz
      exact ⟨c, hc, heq⟩
  obtain ⟨c, hc, heq⟩ := hsome
  simp only [Board.baseGrade]
  split
  case isTrue hover =>
    refine ⟨fun c hc => Nat.le_trans (hcells c hc) (Nat.le_max_left _ _), fun _ => Nat.le_max_right _ _, ?_⟩
    rcases Nat.le_total (bankOverflowGrade m b.bank) ((b.segment x.val y.val).foldl (fun g c => max g c.grade) 0) with hle | hle
    · exact .inl ⟨c, hc, by rw [Nat.max_eq_left hle, heq]⟩
    · exact .inr ⟨hover, Nat.max_eq_right hle⟩
  case isFalse hover => exact ⟨hcells, fun h => absurd h hover, .inl ⟨c, hc, heq⟩⟩

/-- R75: the width class is that of the narrowest known cell of the segment, or of 60000. -/
theorem widthClass_spec (hxy : x < y) : ∃ w : Nat,
    ((∃ c : Fin 48, (4 * x.val ≤ c.val ∧ c.val < 4 * y.val) ∧ b.cells[c].known = true ∧ w = b.cells[c].w ∧
        ∀ j : Fin 48, 4 * x.val ≤ j.val ∧ j.val < 4 * y.val → b.cells[j].known = true → w ≤ b.cells[j].w) ∨
      ((∀ c : Fin 48, 4 * x.val ≤ c.val ∧ c.val < 4 * y.val → b.cells[c].known = false) ∧ w = 60000)) ∧
    b.widthClass m x.val y.val = ((List.range 5).filter fun i => decide (bankWidthBoundary m b.bank i ≤ w)).length := by
  refine ⟨_, ?_, rfl⟩
  split
  case h_1 hnone =>
    refine .inr ⟨fun c hc => ?_, rfl⟩
    have hc := List.filter_eq_nil_iff.mp hnone _ ((mem_segment hxy).mpr ⟨c, hc, rfl⟩)
    simpa using hc
  case h_2 z zs hsome =>
    obtain ⟨hstart, hall, hone⟩ := foldl_min_spec Cell.w zs z.w
    have hleast : ∀ u ∈ z :: zs, zs.foldl (fun w c => min w c.w) z.w ≤ u.w := by
      intro u hu
      rcases List.mem_cons.mp hu with rfl | hu
      · exact hstart
      · exact hall u hu
    have hattained : ∃ u ∈ z :: zs, zs.foldl (fun w c => min w c.w) z.w = u.w := by
      rcases hone with hone | ⟨u, hu, hone⟩
      · exact ⟨z, by simp, hone⟩
      · exact ⟨u, by simp [hu], hone⟩
    obtain ⟨u, hu, heq⟩ := hattained
    rw [← hsome] at hu hleast
    obtain ⟨hu, hknown⟩ := List.mem_filter.mp hu
    obtain ⟨c, hc, rfl⟩ := (mem_segment hxy).mp hu
    exact .inl ⟨c, hc, hknown, heq, fun j hj hjknown =>
      hleast _ (List.mem_filter.mpr ⟨(mem_segment hxy).mpr ⟨j, hj, rfl⟩, hjknown⟩)⟩

end Sys2Proof.Machine

namespace Sys2Proof.Proofs

open Sys2Proof.Machine

/-- Settles O20: a cell by its presence, a rule by its condition, a defect by the first limit that admits it, and a
segment by the specification of each part of its evaluation. -/
theorem cellAndSegmentGrades : Obligations.CellAndSegmentGrades := by
  refine ⟨fun m k defects c x => ⟨fun hpresent => ?absent, fun hpresent hknown => ?unknown, fun hpresent hknown => ?known⟩,
    fun m k r x => ⟨fun hq => if_pos hq, fun v hv => ?rule⟩, fun m k d => defectGrade_spec d,
    fun b m forced x y hxy => ?segment⟩
  case absent => simp [cellGrade, hpresent]
  case unknown => simp [cellGrade, hpresent, hknown]
  case known =>
    obtain ⟨hrules, hrule⟩ := rulesGrade_spec (m := m) (k := k) (x := x)
    obtain ⟨hstart, hall, hone⟩ := foldl_max_spec (defectGrade m k) (defects.filter fun d => decide (d.cell = c))
      (rulesGrade m k x)
    rw [cellGrade_of_known hpresent hknown]
    refine ⟨fun r hr hfires => Nat.le_trans (hrules r hr hfires) hstart, fun d hd hcell => hall d (by simp [hd, hcell]), ?_⟩
    rcases hone with hone | ⟨d, hd, hone⟩
    · rw [hone]
      exact hrule.imp_right .inl
    · obtain ⟨hd, hcell⟩ := List.mem_filter.mp hd
      exact .inr (.inr ⟨d, hd, by simpa using hcell, hone⟩)
  case rule =>
    rw [ruleFires_eq hv]
    exact conditionHolds_spec min_le_max
  case segment =>
    refine ⟨fun g hforced => ?_, fun hforced => ?_, rfl, widthClass_spec hxy, fun hg => if_pos hg,
      fun hg => if_neg (Nat.not_le.mpr hg), rfl⟩
    · simp only [Board.evaluate, hforced, Option.getD_some]
    · obtain ⟨hcells, hover, hone⟩ := baseGrade_spec (b := b) (m := m) hxy
      obtain ⟨hle, hpassed, hend⟩ := escalate_spec m b.bank (b.segmentDefects x.val y.val) 8 (b.baseGrade m x.val y.val)
        (by omega)
      have hgrade : (b.evaluate m forced x.val y.val).grade =
          escalate m b.bank (b.segmentDefects x.val y.val) 8 (b.baseGrade m x.val y.val) := by
        simp only [Board.evaluate, hforced, Option.getD_none]
      have hcount : ((b.defects.filter fun d => decide (4 * x.val ≤ d.cell ∧ d.cell < 4 * y.val)).length) =
          b.segmentDefects x.val y.val := by
        simp only [Board.segmentDefects, Bool.decide_and]
      refine ⟨_, hcells, hover, hone, ?_⟩
      rw [hgrade, hcount]
      exact ⟨hle, hpassed, hend⟩

end Sys2Proof.Proofs
end

section
/-! The trim solver (R86, R87, R93 to R98): the best of the candidates, the plan of a solve, its begin and completion. -/

namespace Sys2Proof.Machine

/-! ### The best candidate (R95) -/

/-- R95: p is chosen before q, or they are alike in all that decides. -/
def NotWorse (p q : Nat × Evaluation) : Prop :=
  q.2.value < p.2.value ∨ (q.2.value = p.2.value ∧ (q.2.lc < p.2.lc ∨ (q.2.lc = p.2.lc ∧ p.1 ≤ q.1)))

theorem NotWorse.refl (p : Nat × Evaluation) : NotWorse p p := .inr ⟨rfl, .inr ⟨rfl, Nat.le_refl _⟩⟩

theorem NotWorse.trans {p q r : Nat × Evaluation} (h : NotWorse p q) (k : NotWorse q r) : NotWorse p r := by
  unfold NotWorse at *
  omega

theorem notWorse_of_betterThan {p q : Nat × Evaluation} :
    (betterThan p q = true → NotWorse p q) ∧ (betterThan p q = false → NotWorse q p) := by
  unfold betterThan NotWorse
  constructor <;> split_ifs <;> simp only [decide_eq_true_eq, decide_eq_false_iff_not] <;> omega

theorem bestOf_isSome (xs : List (Nat × Evaluation)) : (bestOf xs).isSome = !xs.isEmpty := by
  cases xs with
  | nil => rfl
  | cons p ps =>
    unfold bestOf
    cases bestOf ps with
    | none => rfl
    | some q => dsimp only; split <;> rfl

theorem bestOf_spec {xs : List (Nat × Evaluation)} {p : Nat × Evaluation} (h : bestOf xs = some p) :
    p ∈ xs ∧ ∀ q ∈ xs, NotWorse p q := by
  induction xs generalizing p with
  | nil => exact nomatch h
  | cons x xs ih =>
    unfold bestOf at h
    cases hrest : bestOf xs with
    | none =>
      rw [hrest] at h
      obtain rfl : x = p := Option.some.inj h
      have hempty := bestOf_isSome xs
      rw [hrest] at hempty
      obtain rfl : xs = [] := by simpa using hempty
      simp [NotWorse.refl]
    | some r =>
      rw [hrest] at h
      obtain ⟨hmem, hall⟩ := ih hrest
      dsimp only at h
      split at h
      case isTrue hbetter =>
        obtain rfl : x = p := Option.some.inj h
        have hle := notWorse_of_betterThan.1 hbetter
        exact ⟨List.mem_cons_self, List.forall_mem_cons.mpr ⟨.refl x, fun q hq => hle.trans (hall q hq)⟩⟩
      case isFalse hbetter =>
        obtain rfl : r = p := Option.some.inj h
        have hle := notWorse_of_betterThan.2 (Bool.eq_false_iff.mpr hbetter)
        exact ⟨List.mem_cons_of_mem _ hmem, List.forall_mem_cons.mpr ⟨hle, hall⟩⟩

/-! ### The valid candidates (R94) -/

variable {b : Board} {m : List Host.Cell} {mask : SawSet} {x y : Fin 13}

theorem segmentPresent_iff (hxy : x < y) : b.segmentPresent x.val y.val = true ↔
    ∀ c : Fin 48, 4 * x.val ≤ c.val → c.val < 4 * y.val → b.cells[c].present = true := by
  rw [Board.segmentPresent, List.all_eq_true]
  constructor
  · exact fun h c hlo hhi => h _ ((mem_segment hxy).mpr ⟨c, ⟨hlo, hhi⟩, rfl⟩)
  · intro h z hz
    obtain ⟨c, ⟨hlo, hhi⟩, rfl⟩ := (mem_segment hxy).mp hz
    exact h c hlo hhi

/-- Condition 3 of R94 as a statement. -/
def Enabled (mask : SawSet) (x y : Fin 13) : Prop := mask.getLsbD x.val = true ∧ mask.getLsbD y.val = true

/-- Condition 4 of R94 as a statement. -/
def Wooden (b : Board) (x y : Fin 13) : Prop :=
  ∀ c : Fin 48, 4 * x.val ≤ c.val → c.val < 4 * y.val → b.cells[c].present = true

/-- R94: the condition that a segment fails is the first of 2 to 4 that does not hold. -/
theorem segmentFault_spec (hxy : x < y) :
    (bankMinLen m b.bank ≤ y.val - x.val → Enabled mask x y → Wooden b x y →
      b.segmentFault m mask x.val y.val = none) ∧
    (¬bankMinLen m b.bank ≤ y.val - x.val → b.segmentFault m mask x.val y.val = some 2) ∧
    (bankMinLen m b.bank ≤ y.val - x.val → ¬Enabled mask x y → b.segmentFault m mask x.val y.val = some 3) ∧
    (bankMinLen m b.bank ≤ y.val - x.val → Enabled mask x y → ¬Wooden b x y →
      b.segmentFault m mask x.val y.val = some 4) := by
  have hsaws : sawsEnabled mask x.val y.val = true ↔ Enabled mask x y := by
    rw [sawsEnabled, Bool.and_eq_true, Enabled]
  have hwood : b.segmentPresent x.val y.val = true ↔ Wooden b x y := segmentPresent_iff hxy
  unfold Board.segmentFault
  refine ⟨fun hlen hon hall => ?_, fun hlen => ?_, fun hlen hon => ?_, fun hlen hon hall => ?_⟩
  · rw [if_neg (by omega), if_neg (by simp [hsaws, hon]), if_neg (by simp [hwood, hall])]
  · rw [if_pos (by omega)]
  · rw [if_neg (by omega), if_pos (by rw [Bool.not_eq_true', Bool.eq_false_iff]; exact hsaws.not.mpr hon)]
  · rw [if_neg (by omega), if_neg (by simp [hsaws, hon]), if_pos (by rw [Bool.not_eq_true', Bool.eq_false_iff]; exact hwood.not.mpr hall)]

theorem segmentFault_eq_none_iff (hxy : x < y) : b.segmentFault m mask x.val y.val = none ↔
    bankMinLen m b.bank ≤ y.val - x.val ∧ Enabled mask x y ∧ Wooden b x y := by
  obtain ⟨hvalid, hshort, hoff, hgap⟩ := segmentFault_spec (b := b) (m := m) (mask := mask) hxy
  by_cases hlen : bankMinLen m b.bank ≤ y.val - x.val
  · by_cases hon : Enabled mask x y
    · by_cases hall : Wooden b x y
      · simp [hvalid hlen hon hall, hlen, hon, hall]
      · simp [hgap hlen hon hall, hall]
    · simp [hoff hlen hon, hon]
  · simp [hshort hlen, hlen]

/-- The pairs of saws a < b. -/
def sawSegments : List (Fin 13 × Fin 13) :=
  ((List.finRange 13).flatMap fun x => (List.finRange 13).map fun y => (x, y)).filter fun q => decide (q.1 < q.2)

theorem sawSegments_nodup : sawSegments.Nodup := by decide +kernel

theorem mem_sawSegments (q : Fin 13 × Fin 13) : q ∈ sawSegments ↔ q.1 < q.2 := by
  obtain ⟨x, y⟩ := q
  simp [sawSegments]

theorem sawPairs_eq : sawPairs = sawSegments.map fun q => (q.1.val, q.2.val) := by decide +kernel

/-- The valid candidates, as pairs of saws. -/
def Board.validSegments (b : Board) (m : List Host.Cell) (mask : SawSet) : List (Fin 13 × Fin 13) :=
  sawSegments.filter fun q => (b.segmentFault m mask q.1.val q.2.val).isNone

theorem candidates_eq : b.candidates m mask = (b.validSegments m mask).map fun q => (q.1.val, q.2.val) := by
  rw [Board.candidates, sawPairs_eq, List.filter_map]
  rfl

theorem mem_validSegments (q : Fin 13 × Fin 13) : q ∈ b.validSegments m mask ↔
    q.1 < q.2 ∧ bankMinLen m b.bank ≤ q.2.val - q.1.val ∧ Enabled mask q.1 q.2 ∧ Wooden b q.1 q.2 := by
  rw [Board.validSegments, List.mem_filter, mem_sawSegments, Option.isNone_iff_eq_none]
  exact and_congr_right segmentFault_eq_none_iff

/-! ### The choice of a plan (R95, R96) -/

variable {forced : Option Nat} {source : PlanSource} {o : Option Override}

/-- R95, R96: with no valid candidate the plan is REMAN for NO_CANDIDATE; else it is that of a best one, a product where
its value is not 0. -/
theorem choosePlan_spec :
    (b.validSegments m mask = [] ∧ b.choosePlan m forced source o mask = remanPlan .noCandidate source o mask 0) ∨
    ∃ q ∈ b.validSegments m mask,
      (∀ z ∈ b.validSegments m mask, NotWorse (q.1.val, b.evaluate m forced q.1.val q.2.val)
        (z.1.val, b.evaluate m forced z.1.val z.2.val)) ∧
      b.choosePlan m forced source o mask =
        if 0 < (b.evaluate m forced q.1.val q.2.val).value then
          productPlan q.1.val (b.evaluate m forced q.1.val q.2.val) source o mask (b.validSegments m mask).length
        else remanPlan .zeroValue source o mask (b.validSegments m mask).length := by
  have hevaluated : ((b.candidates m mask).map fun p => (p.1, b.evaluate m forced p.1 p.2)) =
      (b.validSegments m mask).map fun q => (q.1.val, b.evaluate m forced q.1.val q.2.val) := by
    rw [candidates_eq, List.map_map]
    rfl
  have hcount : (b.candidates m mask).length = (b.validSegments m mask).length := by rw [candidates_eq, List.length_map]
  unfold Board.choosePlan
  dsimp only
  rw [hevaluated, hcount]
  cases hbest : bestOf ((b.validSegments m mask).map fun q => (q.1.val, b.evaluate m forced q.1.val q.2.val)) with
  | none =>
    have hempty := bestOf_isSome ((b.validSegments m mask).map fun q => (q.1.val, b.evaluate m forced q.1.val q.2.val))
    rw [hbest] at hempty
    exact .inl ⟨by simpa using hempty, rfl⟩
  | some p =>
    obtain ⟨hmem, hall⟩ := bestOf_spec hbest
    obtain ⟨q, hq, rfl⟩ := List.mem_map.mp hmem
    exact .inr ⟨q, hq, fun z hz => hall _ (List.mem_map_of_mem hz), rfl⟩

theorem solve_recorded : (b.solve m o mask).overrideUsed = o ∧ (b.solve m o mask).maskUsed = mask := by
  have hchoose : ∀ forced source, (b.choosePlan m forced source o mask).overrideUsed = o ∧
      (b.choosePlan m forced source o mask).maskUsed = mask := by
    intro forced source
    rcases choosePlan_spec (b := b) (m := m) (mask := mask) (forced := forced) (source := source) (o := o) with
      ⟨-, heq⟩ | ⟨q, -, -, heq⟩
    · rw [heq]
      exact ⟨rfl, rfl⟩
    · rw [heq]
      split <;> exact ⟨rfl, rfl⟩
  cases o with
  | none => exact hchoose none .solved
  | some v =>
    obtain ⟨station, action⟩ := v
    cases action with
    | grade g => exact hchoose (some g.val) .override
    | trim x y =>
      simp only [Board.solve, Board.trimPlan]
      split
      · exact ⟨rfl, rfl⟩
      · split <;> exact ⟨rfl, rfl⟩
    | reman => exact ⟨rfl, rfl⟩

/-- R97: the plan under TRIM is that of its one segment where this is valid. -/
theorem trimPlan_of_valid {station : Fin 8} (hvalid : b.segmentFault m mask x.val y.val = none) :
    b.solve m (some ⟨station, .trim x y⟩) mask =
      if 0 < (b.evaluate m none x.val y.val).value then
        productPlan x.val (b.evaluate m none x.val y.val) .override (some ⟨station, .trim x y⟩) mask 1
      else remanPlan .zeroValue .override (some ⟨station, .trim x y⟩) mask 1 := by
  simp only [Board.solve, Board.trimPlan, hvalid]

theorem trimPlan_of_fault {station : Fin 8} {n : Nat} (hfault : b.segmentFault m mask x.val y.val = some n) :
    b.solve m (some ⟨station, .trim x y⟩) mask =
      remanPlan .ovrInvalid .ovrInvalid (some ⟨station, .trim x y⟩) mask 0 := by
  simp only [Board.solve, Board.trimPlan, hfault]

theorem invalidNotice_trim {station : Fin 8} : b.invalidNotice m (some ⟨station, .trim x y⟩) mask =
    (b.segmentFault m mask x.val y.val).map fun n => .ovrInvalid b.lug station.val x.val y.val n := rfl

end Sys2Proof.Machine

namespace Sys2Proof.Proofs

open Sys2Proof.Machine

/-- Settles O22: `bestOf_spec` on the valid segments, and the one segment of a TRIM override by `segmentFault_spec`. -/
theorem planOfSolve : Obligations.PlanOfSolve := by
  refine ⟨bestOf_isSome, fun xs p => bestOf_spec, fun b m mask => ?_⟩
  intro long enabled wood valid product reman
  refine ⟨fun o => solve_recorded, ?chosen, fun station x y hxy => ⟨?trimValid, ?trimInvalid⟩,
    fun station => ⟨⟨rfl, rfl, rfl, rfl, rfl, rfl, rfl, rfl, rfl⟩, rfl⟩, ?silent⟩
  case chosen =>
    intro o forced source hcase p value code
    have hplan : p = b.choosePlan m forced source o mask := by
      rcases hcase with ⟨rfl, rfl, rfl⟩ | ⟨station, g, rfl, rfl, rfl⟩ <;> rfl
    refine ⟨b.validSegments m mask, sawSegments_nodup.filter _, mem_validSegments, ?_⟩
    rw [hplan]
    rcases choosePlan_spec (b := b) (m := m) (mask := mask) (forced := forced) (source := source) (o := o) with
      ⟨hempty, heq⟩ | ⟨q, hq, hall, heq⟩
    · rw [heq, hempty]
      refine ⟨rfl, fun _ => ⟨rfl, rfl, rfl, rfl, rfl, rfl, rfl, rfl, rfl⟩, fun hne => absurd rfl hne, ?_⟩
      rintro ⟨z, hz, -⟩
      exact nomatch hz
    · have hxy : q.1.val < q.2.val := ((mem_validSegments q).mp hq).1
      rw [heq]
      refine ⟨by split <;> rfl, fun hempty => absurd hempty (List.ne_nil_of_mem hq), fun _ hzero => ?_, ?_⟩
      · rw [if_neg (by have := hzero q hq; simp only [value] at this; omega)]
        exact ⟨rfl, rfl, rfl, rfl, rfl, rfl, rfl, rfl, rfl⟩
      · rintro ⟨z, hz, hvalue⟩
        have hle := hall z hz
        simp only [NotWorse] at hle
        rw [if_pos (by simp only [value] at hvalue; omega)]
        exact ⟨q, hq, ⟨rfl, rfl, Nat.add_sub_cancel' hxy.le, rfl, rfl, rfl, rfl, rfl, rfl⟩, hall⟩
  case trimValid =>
    rintro ⟨-, hlen, hon, hwood⟩
    have hnone : b.segmentFault m mask x.val y.val = none := (segmentFault_spec hxy).1 hlen hon hwood
    rw [trimPlan_of_valid hnone]
    refine ⟨by split <;> rfl, fun hvalue => ?_, fun hvalue => ?_, by rw [invalidNotice_trim, hnone]; rfl⟩
    · rw [if_pos (Nat.pos_of_ne_zero hvalue)]
      exact ⟨rfl, rfl, Nat.add_sub_cancel' (Nat.le_of_lt hxy), rfl, rfl, rfl, rfl, rfl, rfl⟩
    · rw [if_neg (by omega)]
      exact ⟨rfl, rfl, rfl, rfl, rfl, rfl, rfl, rfl, rfl⟩
  case trimInvalid =>
    intro hinvalid
    obtain ⟨hvalid, hshort, hoff, hgap⟩ := segmentFault_spec (b := b) (m := m) (mask := mask) hxy
    have hfault : ∃ n, b.segmentFault m mask x.val y.val = some n ∧ ((n = 2 ∧ ¬long x y) ∨
        (n = 3 ∧ long x y ∧ ¬enabled x y) ∨ (n = 4 ∧ long x y ∧ enabled x y ∧ ¬wood x y)) := by
      by_cases hlen : long x y
      · by_cases hon : enabled x y
        · have hwood : ¬wood x y := fun hwood => hinvalid ⟨hxy, hlen, hon, hwood⟩
          exact ⟨4, hgap hlen hon hwood, .inr (.inr ⟨rfl, hlen, hon, hwood⟩)⟩
        · exact ⟨3, hoff hlen hon, .inr (.inl ⟨rfl, hlen, hon⟩)⟩
      · exact ⟨2, hshort hlen, .inl ⟨rfl, hlen⟩⟩
    obtain ⟨n, hn, hcases⟩ := hfault
    rw [trimPlan_of_fault hn]
    exact ⟨rfl, ⟨rfl, rfl, rfl, rfl, rfl, rfl, rfl, rfl, rfl⟩, n, by rw [invalidNotice_trim, hn]; rfl, hcases⟩
  case silent =>
    intro o hnot
    cases o with
    | none => rfl
    | some v =>
      obtain ⟨station, action⟩ := v
      cases action with
      | grade g => rfl
      | trim x y => exact absurd rfl (hnot ⟨station, .trim x y⟩ x y rfl)
      | reman => rfl

end Sys2Proof.Proofs
end

section
/-! The begin and the completion of a solve (R84, R86, R87, R97). -/

namespace Sys2Proof.Machine

variable {s : State}

/-- R86: with no solve in flight the oldest QUEUED board begins its solve. -/
theorem beginSolve_of_queued (hfree : s.solver.inFlight = none) (hqueued : ∃ i : Fin 64, s.boards[i].state = .queued) :
    ∃ i : Fin 64, s.boards[i].state = .queued ∧
      (∀ j : Fin 64, s.boards[j].state = .queued → s.distance s.boards[j].lug ≤ s.distance s.boards[i].lug) ∧
      s.beginSolve = ((s.setSolver { s.solver with inFlight := some ⟨i, s.boards[i].override, s.sawMask⟩ }).setBoard i
        { s.boards[i] with state := .solving }).publish .lugTracker (.board i) := by
  obtain ⟨hordered, hmem⟩ := boardsByAge_spec s fun b => decide (b.state = .queued)
  have hiff : ∀ j : Fin 64, j ∈ (s.boardsByAge fun b => decide (b.state = .queued)) ↔ s.boards[j].state = .queued :=
    fun j => (hmem j).trans decide_eq_true_iff
  cases hlist : s.boardsByAge fun b => decide (b.state = .queued) with
  | nil =>
    obtain ⟨i, hi⟩ := hqueued
    have hi := (hiff i).mpr hi
    rw [hlist] at hi
    exact nomatch hi
  | cons i js =>
    rw [hlist] at hordered hiff
    refine ⟨i, (hiff i).mp List.mem_cons_self, fun j hj => ?_, by simp only [State.beginSolve, hfree, hlist]⟩
    rcases List.mem_cons.mp ((hiff j).mpr hj) with rfl | hj
    · exact Nat.le_refl _
    · exact (List.pairwise_cons.mp hordered).1 j hj

/-! ### What service of the waiting list leaves -/

theorem serveOne_other {i j : Fin 64} (h : j ≠ i) : (s.serveOne i).boards[j] = s.boards[j] := by
  have hval : i.val ≠ j.val := fun heq => h (Fin.ext heq.symm)
  unfold State.serveOne
  split
  case h_1 k x _ => cases k <;> simp [State.countCredit, hval]
  case h_2 => rfl

theorem forEach_serveOne_other {js : List (Fin 64)} {j : Fin 64} (h : j ∉ js) :
    (s.forEach js State.serveOne).boards[j] = s.boards[j] := by
  induction js generalizing s with
  | nil => rfl
  | cons i js ih =>
    obtain ⟨hne, hnot⟩ := not_or.mp (mt List.mem_cons.mpr h)
    exact (ih hnot).trans (serveOne_other hne)

theorem serveWaiting_nil (h : s.solver.waiting = []) : s.serveWaiting = s := by
  rw [State.serveWaiting, h]
  rfl

/-! ### The completion (R87) -/

/-- R87: the completion of the solve v before the service of the waiting list. -/
def State.solved (s : State) (v : Solve) : State :=
  let b := s.boards[v.slot]
  let t := (s.storePlan v.slot (b.solve s.shadow v.override v.mask)).raiseIf
    (b.invalidNotice s.shadow v.override v.mask)
  let u := (t.publish .lugTracker (.board v.slot)).bump .solvesCompleted
  u.setSolver (u.solver.giveBack v.slot)

theorem completeSolve_of_some {v : Solve} (h : s.solver.inFlight = some v) :
    s.completeSolve = (s.solved v).serveWaiting := by
  rw [State.completeSolve, h]
  rfl

/-- The raising of a notice, if there is one, leaves all but the notices and what is published. -/
theorem raiseIf_only (n : Option Notice) : OnlyChanges [.notices, .stamps, .publications] s (s.raiseIf n) :=
  (raiseIf_frame n (by simp)).mpr (.refl _ s)

variable {v : Solve}

/-- The plan stored, and the notice it calls for. -/
def State.planned (s : State) (v : Solve) : State :=
  (s.storePlan v.slot (s.boards[v.slot].solve s.shadow v.override v.mask)).raiseIf
    (s.boards[v.slot].invalidNotice s.shadow v.override v.mask)

theorem planned_only : OnlyChanges [.notices, .stamps, .publications]
    (s.storePlan v.slot (s.boards[v.slot].solve s.shadow v.override v.mask)) (s.planned v) := raiseIf_only _

theorem solved_boards : (s.solved v).boards = s.boards.set v.slot
    { s.boards[v.slot] with
      plan := some (s.boards[v.slot].solve s.shadow v.override v.mask), stale := none, request := none, state := .solved } :=
  (publish_boards (s.planned v) _ _).trans (planned_only .boards (by simp))

theorem solved_solver : (s.solved v).solver = { s.solver.giveBack v.slot with inFlight := none } := by
  have hsolver : ((s.planned v).publish .lugTracker (.board v.slot)).solver = { s.solver with inFlight := none } :=
    (publish_solver (s.planned v) _ _).trans (planned_only .solver (by simp))
  exact congrArg (Solver.giveBack · v.slot) hsolver

theorem solved_stats : (s.solved v).stats = s.stats.set 10 (satAdd s.stats[10] 1) := by
  have hstats : ((s.planned v).publish .lugTracker (.board v.slot)).stats = s.stats :=
    (publish_stats (s.planned v) _ _).trans (planned_only .stats (by simp))
  exact congrArg (fun xs : Vector Word 24 => xs.set 10 (satAdd xs[10] 1)) hstats

theorem solved_notices : (s.solved v).notices =
    (s.raiseIf (s.boards[v.slot].invalidNotice s.shadow v.override v.mask)).notices := by
  refine (publish_notices (s.planned v) _ _).trans ?_
  rw [State.planned]
  cases s.boards[v.slot].invalidNotice s.shadow v.override v.mask with
  | none => rfl
  | some n => exact raise_notices_congr (by rfl) (by rfl) n

end Sys2Proof.Machine

namespace Sys2Proof.Proofs

open Sys2Proof.Machine

/-- Settles O23, by `beginSolve_of_queued`. -/
theorem solveBegins : Obligations.SolveBegins := by
  intro s hfree hqueued
  obtain ⟨i, hi, holdest, hnext⟩ := beginSolve_of_queued (s := s.beginEvent) hfree hqueued
  refine ⟨i, _, rfl, hi, holdest, ?_, ?_, by simp⟩
  · rw [hnext]
    exact publish_solver _ _ _
  · rw [hnext]
    exact publish_boards _ _ _

/-- Settles O24: what `State.solved` says, and what the service of the waiting list leaves of it. -/
theorem solveCompletes : Obligations.SolveCompletes := by
  intro s v hinFlight b
  have hnext : s.beginEvent.completeSolve = (s.beginEvent.solved v).serveWaiting := completeSolve_of_some hinFlight
  obtain ⟨hkept, -, hboards, -⟩ := forEach_serveOne_keeps (s.beginEvent.solved v).solver.waiting (s.beginEvent.solved v)
  obtain ⟨x, hboard, -⟩ := hboards v.slot
  have hsolved : (s.beginEvent.solved v).boards[v.slot] =
      { b with plan := some (b.solve s.shadow v.override v.mask), stale := none, request := none, state := .solved } := by
    rw [solved_boards]
    exact Vector.getElem_set_self _
  have hserved : s.beginEvent.completeSolve.boards[v.slot] =
      { b with plan := some (b.solve s.shadow v.override v.mask), stale := none, request := none, state := x } := by
    rw [hnext]
    exact hboard.trans (by rw [hsolved])
  have hnotices : s.beginEvent.completeSolve.notices =
      (s.beginEvent.raiseIf (b.invalidNotice s.shadow v.override v.mask)).notices := by
    rw [hnext]
    have hserves : OnlyChanges [.boards, .solver, .stats, .stamps, .publications] (s.beginEvent.solved v)
        (s.beginEvent.solved v).serveWaiting := (serveWaiting_frame (by simp)).mpr (.refl _ _)
    exact Eq.trans (hserves .notices (by simp)) solved_notices
  refine ⟨_, rfl, by rw [hserved], by rw [hserved], by rw [hserved], fun hnot => ?_, ?_, fun n hn => ?_, fun hn => ?_,
    by simp, fun hwaiting => ?_⟩
  · have hstands : s.beginEvent.completeSolve.boards[v.slot] = (s.beginEvent.solved v).boards[v.slot] := by
      rw [hnext]
      exact forEach_serveOne_other (by rw [solved_solver]; exact hnot)
    rw [hstands, hsolved]
  · rw [hnext]
    exact hkept.trans (by rw [solved_solver])
  · rw [hnotices, hn]
    exact raise_notices_congr (s := s) (t := s.beginEvent) rfl rfl n
  · rw [hnotices, hn]
    rfl
  · rw [hnext, serveWaiting_nil (by rw [solved_solver]; exact hwaiting)]
    exact ⟨solved_boards, solved_solver, solved_stats⟩

end Sys2Proof.Proofs
end

section
/-! Measurement close (R41 to R44, R65, R68, R81 to R83): what a close makes of its board, its request and its notices. -/

namespace Sys2Proof.Machine

/-! ### Elements of a vector by `Fin` -/

theorem get_set_self {α : Type} {n : Nat} (xs : Vector α n) (i : Fin n) (x : α) : (xs.set i x)[i] = x :=
  Vector.getElem_set_self i.isLt

theorem get_set_ne {α : Type} {n : Nat} {xs : Vector α n} {i j : Fin n} {x : α} (h : i ≠ j) : (xs.set i x)[j] = xs[j] :=
  Vector.getElem_set_ne i.isLt j.isLt fun heq => h (Fin.ext heq)

/-! ### Rough lengths (R44) -/

/-- Over cells in ascending order `lengthTo` ends past every cell that satisfies the test, at one that does. -/
theorem foldl_length_spec (p : Fin 48 → Bool) (cs : List (Fin 48)) (h : cs.Pairwise (· < ·)) :
    let n := cs.foldl (fun n c => if p c then c.val + 1 else n) 0
    (∀ c ∈ cs, p c = true → c.val < n) ∧ (n = 0 ∨ ∃ c ∈ cs, c.val + 1 = n ∧ p c = true) := by
  induction cs using List.reverseRecOn with
  | nil => exact ⟨nofun, .inl rfl⟩
  | append_singleton cs d ih =>
    obtain ⟨hcs, -, hlast⟩ := List.pairwise_append.mp h
    obtain ⟨hall, hone⟩ := ih hcs
    rw [List.foldl_append]
    simp only [List.foldl_cons, List.foldl_nil]
    split
    case isTrue hd =>
      refine ⟨fun c hc _ => ?_, .inr ⟨d, by simp, rfl, hd⟩⟩
      rcases List.mem_append.mp hc with hc | hc
      · exact Nat.lt_succ_of_lt (hlast c hc d (by simp))
      · rw [List.mem_singleton.mp hc]
        exact Nat.lt_succ_self _
    case isFalse hd =>
      refine ⟨fun c hc hp => ?_, hone.imp_right fun ⟨c, hc, hrest⟩ => ⟨c, by simp [hc], hrest⟩⟩
      rcases List.mem_append.mp hc with hc | hc
      · exact hall c hc hp
      · rw [List.mem_singleton.mp hc] at hp
        exact absurd hp hd

theorem lengthTo_spec (p : Fin 48 → Bool) :
    (∀ c, p c = true → c.val < lengthTo p) ∧ (lengthTo p ≠ 0 → ∃ c : Fin 48, c.val + 1 = lengthTo p ∧ p c = true) := by
  obtain ⟨hall, hone⟩ := foldl_length_spec p (List.finRange 48) (List.pairwise_lt_finRange 48)
  refine ⟨fun c => hall c (List.mem_finRange c), fun hne => ?_⟩
  obtain ⟨c, -, hc⟩ := hone.resolve_left hne
  exact ⟨c, hc⟩

theorem lt_lengthTo_iff {p : Fin 48 → Bool} {c : Fin 48} : c.val < lengthTo p ↔ ∃ k : Fin 48, c ≤ k ∧ p k = true := by
  obtain ⟨hall, hone⟩ := lengthTo_spec p
  constructor
  · intro hlt
    obtain ⟨k, hk, hp⟩ := hone (by omega)
    exact ⟨k, Fin.le_def.mpr (by omega), hp⟩
  · rintro ⟨k, hle, hp⟩
    exact Nat.lt_of_le_of_lt hle (hall k hp)

/-! ### The board after its close (R42 to R44, R65) -/

/-- Half of a cell's slices or more, and one at least, show it (R42). -/
def Board.Seen (b : Board) (c : Fin 48) : Prop :=
  1 ≤ b.slicesOf (cellHead c) ∧ b.slicesOf (cellHead c) ≤ 2 * b.acc[c].present

theorem knownPresent_iff {b : Board} {c : Fin 48} : b.knownPresent c = true ↔ b.Seen c := by
  simp only [Board.knownPresent, Bool.and_eq_true, decide_eq_true_eq, Board.Seen]

/-- R42 and R43: the reduced entry of a cell. -/
theorem reduceCell_spec (b : Board) (c : Fin 48) :
    let x := b.reduceCell (lengthTo b.knownPresent) c
    x.reduced = true ∧ x.known = decide (1 ≤ b.slicesOf (cellHead c)) ∧
    (b.Seen c → x.present = true ∧ x.t = (b.acc[c].t + b.acc[c].present / 2) / b.acc[c].present ∧
      x.w = (b.acc[c].w + b.acc[c].present / 2) / b.acc[c].present ∧
      x.n = (b.acc[c].n + b.acc[c].present / 2) / b.acc[c].present) ∧
    (¬b.Seen c → x.t = 0 ∧ x.w = 0 ∧ x.n = 0) ∧
    (x.known = true → ¬b.Seen c → x.present = false) ∧
    (x.known = false → (x.present = true ↔ ∃ k : Fin 48, c < k ∧ b.Seen k)) := by
  have hknown : b.knownPresent c = true ↔ b.Seen c := knownPresent_iff
  intro x
  by_cases hslices : 1 ≤ b.slicesOf (cellHead c)
  · by_cases hseen : b.Seen c
    · have hx : x = ⟨roundedMean b.acc[c].t b.acc[c].present, roundedMean b.acc[c].w b.acc[c].present,
          roundedMean b.acc[c].n b.acc[c].present, true, true, true, 0⟩ :=
        (if_pos hslices).trans (if_pos (hknown.mpr hseen))
      rw [hx]
      exact ⟨rfl, (decide_eq_true hslices).symm, fun _ => ⟨rfl, rfl, rfl, rfl⟩, fun hnot => absurd hseen hnot,
        fun _ hnot => absurd hseen hnot, nofun⟩
    · have hx : x = ⟨0, 0, 0, false, true, true, 0⟩ := (if_pos hslices).trans (if_neg (hknown.not.mpr hseen))
      rw [hx]
      exact ⟨rfl, (decide_eq_true hslices).symm, fun hyes => absurd hyes hseen, fun _ => ⟨rfl, rfl, rfl⟩, fun _ _ => rfl, nofun⟩
  · have hseen : ¬b.Seen c := fun hseen => hslices hseen.1
    have hx : x = ⟨0, 0, 0, decide (c.val < lengthTo b.knownPresent), false, true, 0⟩ := if_neg hslices
    rw [hx]
    refine ⟨rfl, (decide_eq_false hslices).symm, fun hyes => absurd hyes hseen, fun _ => ⟨rfl, rfl, rfl⟩, nofun, fun _ => ?_⟩
    rw [decide_eq_true_iff, lt_lengthTo_iff]
    constructor
    · rintro ⟨k, hle, hk⟩
      have hk := knownPresent_iff.mp hk
      exact ⟨k, lt_of_le_of_ne hle (fun heq => hseen (heq ▸ hk)), hk⟩
    · rintro ⟨k, hlt, hk⟩
      exact ⟨k, le_of_lt hlt, knownPresent_iff.mpr hk⟩

/-- R65: a cell of a closed board is its reduced entry with the grade of that entry. -/
theorem closedCell (b : Board) (m : List Host.Cell) (c : Fin 48) : (b.reduce.gradeCells m).cells[c] =
    { b.reduceCell (lengthTo b.knownPresent) c with
      grade := cellGrade m b.bank b.defects c.val (b.reduceCell (lengthTo b.knownPresent) c) } := by
  simp only [Board.gradeCells, Board.reduce, Fin.getElem_fin, Vector.getElem_ofFn]

/-- A close changes of its board the cells and the rough length, and then the request and the state. -/
theorem closed_eq (b : Board) (m : List Host.Cell) (x : BoardState) :
    { b.reduce.gradeCells m with request := some .first, state := x } =
      { b with
        cells := (b.reduce.gradeCells m).cells, roughCells := (b.reduce.gradeCells m).roughCells
        request := some .first, state := x } := by
  simp only [Board.gradeCells, Board.reduce]

/-- R42, R43 and R65: a cell of a closed board. -/
theorem closedCell_spec {b : Board} {m : List Host.Cell} {c : Fin 48} {x : Cell}
    (hx : x = (b.reduce.gradeCells m).cells[c]) :
    x.reduced = true ∧ x.known = decide (1 ≤ b.slicesOf (cellHead c)) ∧
    (b.Seen c → x.present = true ∧ x.t = (b.acc[c].t + b.acc[c].present / 2) / b.acc[c].present ∧
      x.w = (b.acc[c].w + b.acc[c].present / 2) / b.acc[c].present ∧
      x.n = (b.acc[c].n + b.acc[c].present / 2) / b.acc[c].present) ∧
    (¬b.Seen c → x.t = 0 ∧ x.w = 0 ∧ x.n = 0) ∧
    (x.known = true → ¬b.Seen c → x.present = false) ∧
    (x.known = false → (x.present = true ↔ ∃ k : Fin 48, c < k ∧ b.Seen k)) ∧
    x.grade = cellGrade m b.bank b.defects c.val x := by
  obtain ⟨hreduced, hknown, hseen, hunseen, habsent, hunknown⟩ := reduceCell_spec b c
  rw [hx, closedCell]
  exact ⟨hreduced, hknown, hseen, hunseen, habsent, hunknown, rfl⟩

/-- R44: the rough length ends at the last present cell. -/
theorem closed_roughCells (b : Board) (m : List Host.Cell) :
    (∀ c : Fin 48, (b.reduce.gradeCells m).cells[c].present = true → c.val < (b.reduce.gradeCells m).roughCells) ∧
    ((b.reduce.gradeCells m).roughCells ≠ 0 → ∃ c : Fin 48, c.val + 1 = (b.reduce.gradeCells m).roughCells ∧
      (b.reduce.gradeCells m).cells[c].present = true) := by
  have hcells : ∀ c : Fin 48, (b.reduce.gradeCells m).cells[c].present = b.reduce.cells[c].present := by
    intro c
    rw [closedCell]
    simp only [Board.reduce, Fin.getElem_fin, Vector.getElem_ofFn]
  have hlength : (b.reduce.gradeCells m).roughCells = lengthTo fun c => b.reduce.cells[c].present := by
    simp only [Board.gradeCells, Board.reduce]
  simp only [hcells, hlength]
  exact lengthTo_spec _

/-- R68: the notices of a close, by the cells it makes. -/
theorem closed_zoneNotices (b : Board) (m : List Host.Cell) : (b.reduce.gradeCells m).zoneNotices m =
    (List.range 16).filterMap fun r =>
      if (bankRule m b.bank r).notice then
        ((List.finRange 48).find? fun c =>
          (b.reduce.gradeCells m).cells[c].present && (b.reduce.gradeCells m).cells[c].known &&
            ruleFires m b.bank (bankRule m b.bank r) (b.reduce.gradeCells m).cells[c]).map fun c => Notice.zone b.lug r c.val
      else none := by
  have hbank : (b.reduce.gradeCells m).bank = b.bank := by rw [Board.gradeCells, Board.reduce]
  have hlug : (b.reduce.gradeCells m).lug = b.lug := by rw [Board.gradeCells, Board.reduce]
  rw [Board.zoneNotices, hbank, hlug]
  simp only [Board.firesOn, hbank]

/-! ### The close of a board -/

variable {s : State} {i : Fin 64}

/-- The board closed, its notices raised, and its request not yet made. -/
def State.closedAt (s : State) (i : Fin 64) : State :=
  (s.setBoard i (s.boards[i].reduce.gradeCells s.shadow)).forEach
    ((s.boards[i].reduce.gradeCells s.shadow).zoneNotices s.shadow) State.raise

theorem closedAt_only : OnlyChanges [.notices, .stamps, .publications]
    (s.setBoard i (s.boards[i].reduce.gradeCells s.shadow)) (s.closedAt i) := forEach_raise_only _ _

theorem closedAt_boards : (s.closedAt i).boards = s.boards.set i (s.boards[i].reduce.gradeCells s.shadow) :=
  closedAt_only .boards (by simp)

theorem closedAt_distance (j : Fin 64) :
    (s.closedAt i).distance (s.closedAt i).boards[j].lug = s.distance s.boards[j].lug := by
  have hlc : (s.closedAt i).lc = s.lc := closedAt_only .lc (by simp)
  have hlug : (s.closedAt i).boards[j].lug = s.boards[j].lug := by
    rw [closedAt_boards]
    by_cases hj : i = j
    · subst hj
      rw [get_set_self, Board.gradeCells, Board.reduce]
    · rw [get_set_ne hj]
  rw [State.distance, State.distance, hlc, hlug]

theorem closeBoard_notices : (s.closeBoard i).notices =
    (s.forEach ((s.boards[i].reduce.gradeCells s.shadow).zoneNotices s.shadow) State.raise).notices := by
  have hrequest : ((s.closedAt i).raiseRequest .first i).notices = (s.closedAt i).notices :=
    (raiseRequest_frame .first i (by simp)).mpr (.refl [.boards, .solver, .stats] _) .notices (by simp)
  exact ((publish_notices _ _ _).trans hrequest).trans (forEach_raise_notices_congr (by rfl) (by rfl) _)

theorem closeBoard_stamp (h : s.path.initialRest = []) :
    (s.closeBoard i).stamp (.board i) = s.stamp (.board i) + 1 := by
  have honly : OnlyChanges [.boards, .solver, .stats] (s.closedAt i) ((s.closedAt i).raiseRequest .first i) :=
    (raiseRequest_frame .first i (by simp)).mpr (.refl _ _)
  have hrest : ((s.closedAt i).raiseRequest .first i).path.initialRest = [] := by
    have hclosed : (s.closedAt i).path.initialRest = [] := Eq.trans (closedAt_only .initialRest (by simp)) h
    exact Eq.trans (honly .initialRest (by simp)) hclosed
  have hstamp : ((s.closedAt i).raiseRequest .first i).stamp (.board i) = s.stamp (.board i) :=
    (honly.stamp (by simp) _).trans (forEach_raise_stamp _ _ _ nofun nofun)
  calc (s.closeBoard i).stamp (.board i)
      = ((s.closedAt i).raiseRequest .first i).stamp (.board i) + 1 :=
        (stamp_publish ((s.closedAt i).raiseRequest .first i) _ _ _).trans
          (if_pos ⟨rfl, by rw [hrest]; exact List.not_mem_nil⟩)
    _ = s.stamp (.board i) + 1 := by rw [hstamp]

/-- R81 to R83: the request of a close takes a credit, or waits at its lug's place. -/
theorem closeBoard_request :
    (s.solver.shared.length < 6 →
      (s.closeBoard i).boards[i].state = .queued ∧
      (s.closeBoard i).solver = { s.solver with shared := s.solver.shared ++ [i] } ∧ (s.closeBoard i).stats = s.stats) ∧
    (6 ≤ s.solver.shared.length → s.solver.reservedFirst = none →
      (s.closeBoard i).boards[i].state = .queued ∧ (s.closeBoard i).solver = { s.solver with reservedFirst := some i } ∧
      (s.closeBoard i).stats = s.stats.set 14 (satAdd s.stats[(14 : Fin 24)] 1)) ∧
    (6 ≤ s.solver.shared.length → s.solver.reservedFirst ≠ none →
      (s.closeBoard i).boards[i].state = .awaiting ∧
      (s.closeBoard i).stats = s.stats.set 13 (satAdd s.stats[(13 : Fin 24)] 1) ∧
      ∃ older younger, s.solver.waiting = older ++ younger ∧
        (s.closeBoard i).solver = { s.solver with waiting := older ++ i :: younger } ∧
        (∀ j ∈ older, s.distance s.boards[i].lug ≤ s.distance s.boards[j].lug) ∧
        ∀ j ∈ younger.head?, s.distance s.boards[j].lug < s.distance s.boards[i].lug) := by
  have hsolver : (s.closedAt i).solver = s.solver := closedAt_only .solver (by simp)
  have hstats : (s.closedAt i).stats = s.stats := closedAt_only .stats (by simp)
  have hboards : (s.closeBoard i).boards = ((s.closedAt i).raiseRequest .first i).boards := publish_boards _ _ _
  have hsolvers : (s.closeBoard i).solver = ((s.closedAt i).raiseRequest .first i).solver := publish_solver _ _ _
  have hcounts : (s.closeBoard i).stats = ((s.closedAt i).raiseRequest .first i).stats := publish_stats _ _ _
  obtain ⟨hshared, hreserved, hwaits⟩ := raiseRequest_first (s.closedAt i) i
  rw [hsolver] at hshared hreserved hwaits
  rw [hboards, hsolvers, hcounts]
  refine ⟨fun hroom => ?_, fun hfull hfree => ?_, fun hfull hheld => ?_⟩
  · rw [hshared hroom]
    exact ⟨congrArg Board.state (get_set_self _ _ _), rfl, hstats⟩
  · rw [hreserved hfull hfree]
    exact ⟨congrArg Board.state (get_set_self _ _ _), rfl,
      congrArg (fun xs : Vector Word 24 => xs.set 14 (satAdd xs[(14 : Fin 24)] 1)) hstats⟩
  · rw [hwaits hfull hheld]
    obtain ⟨older, younger, hsplit, hinsert, holder, hyounger⟩ := insertByAge_split (s.closedAt i) i s.solver.waiting
    simp only [closedAt_distance] at holder hyounger
    refine ⟨congrArg Board.state (get_set_self _ _ _),
      congrArg (fun xs : Vector Word 24 => xs.set 13 (satAdd xs[(13 : Fin 24)] 1)) hstats,
      older, younger, hsplit, ?_, holder, hyounger⟩
    rw [← hinsert]
    rfl

/-! ### The close of a lug (R12) -/

theorem closeLug_none {lug : Half} (h : s.entry lug = none) : s.closeLug lug = s := by
  rw [State.closeLug, h]

theorem closeLug_closed {lug : Half} {e : LugEntry} (h : s.entry lug = some e) (hclosed : e.closed = true) :
    s.closeLug lug = s := by
  rw [State.closeLug, h]
  exact if_pos hclosed

theorem closeLug_board {lug : Half} {e : LugEntry} (h : s.entry lug = some e) (hopen : e.closed = false)
    (hboard : e.board = some i) :
    s.closeLug lug = (s.setEntry lug (some { e with closed := true })).closeBoard i := by
  rw [State.closeLug, h]
  refine (if_neg (by simp [hopen])).trans ?_
  rw [hboard]

theorem closeLug_empty {lug : Half} {e : LugEntry} (h : s.entry lug = some e) (hopen : e.closed = false)
    (hboard : e.board = none) :
    s.closeLug lug = (s.setEntry lug (some { e with closed := true, override := none })).closeEmpty lug e.override := by
  rw [State.closeLug, h]
  refine (if_neg (by simp [hopen])).trans ?_
  rw [hboard]

/-- R41: the early close test asks the enabled heads that are not blocked. -/
theorem readyForClose_iff {b : Board} : s.readyForClose b = true ↔
    ∀ (h : Fin 8) (k : Fin 9), k.val = h.val → s.heads[k].enabled = true → s.heads[k].blocked = false →
      s.slicesPerLug h ≤ b.sliceSets[h].length := by
  have hhead : ∀ (h : Fin 8) (k : Fin 9), k.val = h.val ↔ k = boardHead h := fun h k => (Fin.ext_iff (b := boardHead h)).symm
  simp only [hhead, forall_eq, State.readyForClose, List.all_eq_true, List.mem_finRange, true_implies, Bool.or_eq_true,
    Bool.not_eq_true']
  refine forall_congr' fun h => ?_
  rw [decide_eq_true_iff]
  cases s.heads[boardHead h].enabled <;> cases s.heads[boardHead h].blocked <;> simp [Board.slicesOf]

/-- R82: the credit of a request. -/
theorem take_spec (x : Solver) (i : Fin 64) :
    (x.shared.length < 6 → ∀ c, x.take c i = some (.shared, { x with shared := x.shared ++ [i] })) ∧
    (6 ≤ x.shared.length →
      (x.reservedFirst = none → x.take .first i = some (.reservedFirst, { x with reservedFirst := some i })) ∧
      (x.reservedFirst ≠ none → x.take .first i = none) ∧
      (x.reservedResolve = none → x.take .resolve i = some (.reservedResolve, { x with reservedResolve := some i })) ∧
      (x.reservedResolve ≠ none → x.take .resolve i = none)) :=
  ⟨fun hroom _ => if_pos hroom, fun hfull =>
    ⟨fun hfree => (if_neg (Nat.not_lt.mpr hfull)).trans (if_pos hfree),
      fun hheld => (if_neg (Nat.not_lt.mpr hfull)).trans (if_neg hheld),
      fun hfree => (if_neg (Nat.not_lt.mpr hfull)).trans (if_pos hfree),
      fun hheld => (if_neg (Nat.not_lt.mpr hfull)).trans (if_neg hheld)⟩⟩

end Sys2Proof.Machine

namespace Sys2Proof.Proofs

open Sys2Proof.Machine

/-- Settles O21: a close by the entry of its lug, and for a board by the parts of `State.closeBoard`. -/
theorem measurementCloses : Obligations.MeasurementCloses := by
  refine ⟨take_spec, fun s => rfl, fun s b => readyForClose_iff, ?_⟩
  intro s lug t
  refine ⟨closeLug_none, fun e he => ⟨closeLug_closed he, fun hopen hempty => ?empty, fun i hopen hboard => ?board⟩⟩
  case empty =>
    have ht : t = (s.setEntry lug (some { e with closed := true, override := none })).closeEmpty lug e.override :=
      closeLug_empty he hopen hempty
    have honly : OnlyChanges [.notices, .stamps, .publications]
        (s.setEntry lug (some { e with closed := true, override := none })) t := by
      rw [ht]
      exact (closeEmpty_frame lug e.override (by simp)).mpr (.refl _ _)
    refine ⟨honly .lugLine (by simp), fun hnone => ?_, fun o ho => ?_, ?_⟩
    · rw [ht, hnone]
      exact (setEntry_frame _ _ (by simp)).mpr (.refl _ s)
    · rw [ht, ho]
      exact raise_notices_congr (by rfl) (by rfl) _
    · exact OnlyChanges.trans ((setEntry_frame _ _ (by simp)).mpr (.refl _ s)) (honly.mono (by simp))
  case board =>
    intro b y slices seen
    have ht : t = (s.setEntry lug (some { e with closed := true })).closeBoard i := closeLug_board he hopen hboard
    obtain ⟨x, hboards⟩ := closeBoard_boards (s.setEntry lug (some { e with closed := true })) i
    obtain ⟨hshared, hreserved, hwaits⟩ := closeBoard_request (s := s.setEntry lug (some { e with closed := true })) (i := i)
    rw [← ht] at hboards hshared hreserved hwaits
    have hy : y = { b.reduce.gradeCells s.shadow with request := some .first, state := x } := by
      simp only [y]
      rw [hboards]
      exact get_set_self _ _ _
    have hcells : y.cells = (b.reduce.gradeCells s.shadow).cells := by rw [hy]
    have hrough : y.roughCells = (b.reduce.gradeCells s.shadow).roughCells := by rw [hy]
    have hstate : y.state = x := by rw [hy]
    refine ⟨?_, fun c => ?_, ?_, ?_, fun j hj => ?_, hshared, hreserved, hwaits, ?_, fun hrest => ?_, by simp [t]⟩
    · rw [ht]
      exact (closeBoard_frame i (by simp)).mpr
        (.refl [.boards, .solver, .stats, .notices, .stamps, .publications] _) .lugLine (by simp)
    · exact closedCell_spec (b := b) (by rw [hcells])
    · rw [hcells, hrough]
      exact closed_roughCells b s.shadow
    · rw [hcells, hrough, hstate]
      exact hy.trans (closed_eq b s.shadow x)
    · rw [hboards]
      exact get_set_ne (Ne.symm hj)
    · rw [ht, closeBoard_notices, hcells, ← closed_zoneNotices]
      exact forEach_raise_notices_congr (by rfl) (by rfl) _
    · rw [ht]
      exact closeBoard_stamp hrest

end Sys2Proof.Proofs
end

section
/-! STATS_CLEAR, an unknown command, and the two commands of the runs (R58, R59, R60, R146, R166). -/

namespace Sys2Proof.Machine

variable {s : State} {x : CommandEntry}

@[simp] theorem offered_runs (s : State) (x : CommandEntry) : (s.offered x).runs = s.runs := offered_only s x .runs (by simp)

@[simp] theorem offered_banks (s : State) (x : CommandEntry) : (s.offered x).banks = s.banks :=
  offered_only s x .banks (by simp)

@[simp] theorem offered_lc (s : State) (x : CommandEntry) : (s.offered x).lc = s.lc := offered_only s x .lc (by simp)

@[simp] theorem offered_lineState (s : State) (x : CommandEntry) : (s.offered x).lineState = s.lineState :=
  offered_only s x .lineState (by simp)

@[simp] theorem offered_notices (s : State) (x : CommandEntry) : (s.offered x).notices = s.notices :=
  offered_only s x .notices (by simp)

theorem offered_running (s : State) (x : CommandEntry) : (s.offered x).running = s.running := by
  rw [State.running, State.running, offered_lineState]

/-- A notice raised where the entry is taken goes where it would have gone before. -/
theorem offered_raise_notices (s : State) (x : CommandEntry) (n : Notice) :
    ((s.offered x).raise n).notices = (s.raise n).notices :=
  raise_notices_congr (offered_notices s x) (offered_routes s x) n

/-- A taken entry changes what its command changes and republishes where it is taken, beside the traces of its taking. -/
theorem given_publishing_frame {T : List Field} (h : s.Takes .command)
    (hdo : OnlyChanges (T ++ [.stamps, .publications]) (s.offered x) ((s.offered x).doCommand x.command).1) :
    OnlyChanges (T ++ commandTraces) s (s.given x) := by
  have htraces : ∀ f ∈ ([.stamps, .publications] : List Field), f ∈ commandTraces := by simp [commandTraces]
  refine OnlyChanges.trans ((offered_only s x).mono (by simp [commandTraces])) ((hdo.mono fun f hf => ?_).trans
    ((given_effect h rfl).mono (by simp [commandTraces])))
  rcases List.mem_append.mp hf with hf | hf
  · exact List.mem_append_left _ hf
  · exact List.mem_append_right _ (htraces f hf)

/-! ### STATS_CLEAR and an unknown code -/

/-- The entry that STATS_CLEAR gives (Table 10-2). -/
def statsClearEntry : CommandEntry := ⟨12, 0, 0⟩

theorem exec_statsClear (s : State) : exec .statsClear s = .next (s.given statsClearEntry) := rfl

theorem doCommand_statsClearEntry (s : State) : s.doCommand statsClearEntry.command =
    (({ s with stats := Vector.replicate 24 0 } : State).publish .tally .stats, plainAnswer .ok) := rfl

/-- The entry that a code which names no command gives. -/
def unknownEntry (code : Byte) : CommandEntry := ⟨code, 0, 0⟩

theorem exec_commandUnknown (s : State) (code : Byte) :
    exec (.commandUnknown code) s = .next (s.given (unknownEntry code)) := rfl

theorem unknownEntry_command {code : Byte} (h : ¬(1 ≤ code.toNat ∧ code.toNat ≤ 12)) :
    (unknownEntry code).command = .unknown := by
  unfold CommandEntry.command
  split <;> first | rfl | (simp only [unknownEntry] at *; omega)

/-! ### RUN_NEW (R58) -/

/-- The entry that RUN_NEW gives (Table 10-2). -/
def runNewEntry : CommandEntry := ⟨7, 0, 0⟩

theorem exec_runNew (s : State) : exec .runNew s = .next (s.given runNewEntry) := rfl

theorem doCommand_runNewEntry (s : State) : s.doCommand runNewEntry.command = s.runNew := rfl

theorem freeSlot_eq_some {y : RunUnit} {r : Fin 8} (hfree : y.slots[r].state = .free)
    (hlowest : ∀ q : Fin 8, q < r → y.slots[q].state ≠ .free) : y.freeSlot = some r :=
  finRange_find?_eq_some.mpr ⟨decide_eq_true hfree, fun q hq => decide_eq_false (hlowest q hq)⟩

theorem freeSlot_eq_none {y : RunUnit} (h : ∀ r : Fin 8, y.slots[r].state ≠ .free) : y.freeSlot = none :=
  List.find?_eq_none.mpr fun r _ => by simpa using h r

theorem openRun_runs (s : State) (r : Fin 8) : (s.openRun r).runs = s.runs.open r :=
  (publish_runs _ _ _).trans (publish_runs _ _ _)

/-! ### RUN_ADVANCE (R59, R60) -/

/-- The entry that RUN_ADVANCE gives (Table 10-2). -/
def runAdvanceEntry : CommandEntry := ⟨8, 0, 0⟩

theorem exec_runAdvance (s : State) : exec .runAdvance s = .next (s.given runAdvanceEntry) := rfl

theorem doCommand_runAdvanceEntry (s : State) : s.doCommand runAdvanceEntry.command = s.runAdvance := rfl

theorem runAdvance_of_next {r q : Fin 8} (hout : s.runs.outfeed = some r) (hnext : nextInQueue r s.runs.queue = some q) :
    s.runAdvance = (s.advanceRun r q, ⟨.ok, 0, s.runs.slots[q].number.toNat⟩) := by
  simp only [State.runAdvance, RunUnit.advanceTo, hout, hnext, Option.map_some]

theorem runAdvance_of_last
    (h : s.runs.outfeed = none ∨ ∃ r, s.runs.outfeed = some r ∧ nextInQueue r s.runs.queue = none) :
    s.runAdvance = (s, plainAnswer .noNextRun) := by
  rcases h with hout | ⟨r, hout, hnext⟩
  · simp only [State.runAdvance, RunUnit.advanceTo, hout]
  · simp only [State.runAdvance, RunUnit.advanceTo, hout, hnext, Option.map_none]

/-- The runs after an advance from r to q: r is FINISHING, or CLOSED at once (R59, R60). -/
def RunUnit.advanced (y : RunUnit) (r q : Fin 8) : RunUnit :=
  { y with
    slots := y.slots.set r { y.slots[r] with state := if y.slots[r].inLine = 0 then .closed else .finishing }
    outfeed := some q }

/-- The state in which the advance has made r FINISHING and not yet settled it. -/
def State.finishing (s : State) (r q : Fin 8) : State :=
  { s with
    runs := { s.runs with slots := s.runs.slots.set r { s.runs.slots[r] with state := .finishing }, outfeed := some q } }

theorem finishing_slot (r q : Fin 8) : (s.finishing r q).runs.slots[r] = { s.runs.slots[r] with state := .finishing } :=
  get_set_self _ _ _

theorem finishing_closes (r q : Fin 8) :
    (s.finishing r q).runs.slots[r].closes = true ↔ s.runs.slots[r].inLine = 0 := by
  rw [finishing_slot]
  simp [RunSlot.closes]

theorem advanceRun_runs (r q : Fin 8) : (s.advanceRun r q).runs = s.runs.advanced r q := by
  have hruns : ((s.finishing r q).settleRun r).runs = s.runs.advanced r q := by
    by_cases hempty : s.runs.slots[r].inLine = 0
    · rw [settleRun_runs_of_closes ((finishing_closes r q).mpr hempty), finishing_slot, RunUnit.advanced, if_pos hempty]
      simp [State.finishing]
    · rw [settleRun_runs_of_not_closes ((finishing_closes r q).not.mpr hempty), RunUnit.advanced, if_neg hempty]
      rfl
  exact ((publish_runs _ _ _).trans (publish_runs _ _ _)).trans hruns

theorem advanceRun_notices (r q : Fin 8) : (s.advanceRun r q).notices =
    (if s.runs.slots[r].inLine = 0 then s.raise (.runClosed s.runs.slots[r].number r.val) else s).notices := by
  have hnotices : ((s.finishing r q).settleRun r).notices =
      (if s.runs.slots[r].inLine = 0 then s.raise (.runClosed s.runs.slots[r].number r.val) else s).notices := by
    unfold State.settleRun
    dsimp only
    by_cases hempty : s.runs.slots[r].inLine = 0
    · rw [if_pos ((finishing_closes r q).mpr hempty), if_pos hempty, finishing_slot]
      exact raise_notices_congr (Eq.trans (publish_notices _ _ _) (by rfl)) (Eq.trans (publish_routes _ _ _) (by rfl)) _
    · rw [if_neg ((finishing_closes r q).not.mpr hempty), if_neg hempty]
      exact publish_notices _ _ _
  exact ((publish_notices _ _ _).trans (publish_notices _ _ _)).trans hnotices

/-- An advance leaves every run its number. -/
theorem advanced_number (y : RunUnit) (r q k : Fin 8) : (y.advanced r q).slots[k].number = y.slots[k].number := by
  by_cases hk : r = k
  · subst hk
    rw [RunUnit.advanced, get_set_self]
  · rw [RunUnit.advanced, get_set_ne hk]

end Sys2Proof.Machine

namespace Sys2Proof.Proofs

open Sys2Proof.Machine

/-- Settles O44, by the records that the clearing and the taking republish. -/
theorem statsCleared : Obligations.StatsCleared := by
  intro s htakes
  have hdo := doCommand_statsClearEntry (s.offered statsClearEntry)
  have hstats : (s.given statsClearEntry).stats = Vector.replicate 24 0 :=
    Eq.trans (given_effect htakes hdo .stats (by simp)) (publish_stats _ _ _)
  refine ⟨_, exec_statsClear s, fun k => ?zero, given_answered htakes hdo, fun r => ?stamps,
    given_publishing_frame (T := [.stats]) htakes ?frame⟩
  case zero =>
    rw [hstats]
    exact Vector.getElem_replicate k.isLt
  case stamps =>
    have hset : (({ s.offered statsClearEntry with stats := Vector.replicate 24 0 } : State)).stamp r = s.stamp r :=
      offered_stamp s statsClearEntry r
    rw [given_stamp htakes hdo, stamp_publish, hset]
    by_cases hstatus : r = .status
    · simp [hstatus]
    · simp [hstatus, htakes.published]
  case frame =>
    exact statsClear_frame (by simp) |>.mpr (.refl _ _)

/-- Settles O45: a code outside 1 to 12 names no command. -/
theorem unknownCommand : Obligations.UnknownCommand := by
  intro s code htakes hwf
  have hcode : ¬(1 ≤ code.toNat ∧ code.toNat ≤ 12) := by
    simp only [Instr.wf, Bool.not_eq_true', Bool.and_eq_false_iff, decide_eq_false_iff_not] at hwf
    omega
  have hdo : (s.offered (unknownEntry code)).doCommand (unknownEntry code).command =
      (s.offered (unknownEntry code), plainAnswer .unknown) := by
    rw [unknownEntry_command hcode]
    rfl
  obtain ⟨hanswer, -, hframe⟩ := given_of_unchanged htakes hdo
  exact ⟨_, exec_commandUnknown s code, hanswer, hframe⟩

/-- Settles O39: by whether there is a FREE run slot. -/
theorem runNewOpens : Obligations.RunNewOpens := by
  intro s htakes
  refine ⟨fun r hfree hlowest => ⟨_, exec_runNew s, ?opens⟩, fun hfull => ⟨_, exec_runNew s, ?full⟩⟩
  case opens =>
    have hdo : (s.offered runNewEntry).doCommand runNewEntry.command =
        ((s.offered runNewEntry).openRun r, ⟨.ok, 0, s.runs.nextNumber.toNat⟩) := by
      rw [doCommand_runNewEntry, State.runNew, offered_runs, freeSlot_eq_some hfree hlowest]
    refine ⟨?_, given_answered htakes hdo, given_publishing_frame (T := [.runs]) htakes
      (by simp [doCommand_runNewEntry])⟩
    rw [show (s.given runNewEntry).runs = _ from given_effect htakes hdo .runs (by simp), openRun_runs, offered_runs]
    rfl
  case full =>
    have hdo : (s.offered runNewEntry).doCommand runNewEntry.command = (s.offered runNewEntry, plainAnswer .runFull) := by
      rw [doCommand_runNewEntry, State.runNew, offered_runs, freeSlot_eq_none hfull]
    obtain ⟨hanswer, -, hframe⟩ := given_of_unchanged htakes hdo
    exact ⟨hanswer, hframe⟩

/-- Settles O40: by whether there are an outfeed run and a next younger one. -/
theorem runAdvances : Obligations.RunAdvances := by
  intro s htakes
  refine ⟨fun r q hout hnext => ⟨_, exec_runAdvance s, ?advance⟩, fun hlast => ⟨_, exec_runAdvance s, ?last⟩⟩
  case advance =>
    have hdo := runAdvance_of_next (s := s.offered runAdvanceEntry) (r := r) (q := q) (by rw [offered_runs, hout])
      (by rw [offered_runs, hnext])
    rw [← doCommand_runAdvanceEntry] at hdo
    have hruns : (s.given runAdvanceEntry).runs = s.runs.advanced r q := by
      rw [show (s.given runAdvanceEntry).runs = _ from given_effect htakes hdo .runs (by simp), advanceRun_runs, offered_runs]
    have hnotices : (s.given runAdvanceEntry).notices = _ := given_effect htakes hdo .notices (by simp)
    have hanswer := given_answered htakes hdo
    rw [hruns]
    refine ⟨rfl, rfl, rfl, rfl, rfl, ?_, ?_, given_publishing_frame (T := [.runs, .notices]) htakes
      (by simp [doCommand_runAdvanceEntry])⟩
    · rw [hnotices, advanceRun_notices, offered_runs]
      split
      · exact offered_raise_notices _ _ _
      · exact offered_notices _ _
    · rw [advanced_number]
      rwa [offered_runs] at hanswer
  case last =>
    have hdo := runAdvance_of_last (s := s.offered runAdvanceEntry) (by rw [offered_runs]; exact hlast)
    rw [← doCommand_runAdvanceEntry] at hdo
    obtain ⟨hanswer, -, hframe⟩ := given_of_unchanged htakes hdo
    exact ⟨hanswer, hframe⟩

end Sys2Proof.Proofs
end

section
/-! The line commands (R2 to R6), but for what STOP_LINE and DRAIN_LINE do, and BANK_SWITCH (R171, R172). -/

namespace Sys2Proof.Machine

variable {s : State} {x : CommandEntry}

/-- The entries that the three line commands give (Table 10-2). -/
def startLineEntry : CommandEntry := ⟨1, 0, 0⟩

def drainLineEntry : CommandEntry := ⟨2, 0, 0⟩

def stopLineEntry : CommandEntry := ⟨3, 0, 0⟩

theorem exec_startLine (s : State) : exec .startLine s = .next (s.given startLineEntry) := rfl

theorem exec_drainLine (s : State) : exec .drainLine s = .next (s.given drainLineEntry) := rfl

theorem exec_stopLine (s : State) : exec .stopLine s = .next (s.given stopLineEntry) := rfl

theorem doCommand_startLineEntry (s : State) : s.doCommand startLineEntry.command = s.startLine := rfl

theorem doCommand_drainLineEntry (s : State) : s.doCommand drainLineEntry.command = s.drainLine := rfl

theorem doCommand_stopLineEntry (s : State) : s.doCommand stopLineEntry.command = s.stopLine := rfl

/-! ### What the command unit reads of the shadow -/

theorem offered_agreeOn {a n : Nat} (ha : 0x2804 ≤ a) : AgreeOn a n s.shadow (s.offered x).shadow :=
  announced_agreeOn (s := s.beginEvent) (CommandEntry.bytes_length x) ha

theorem offered_configCheck : configCheck (s.offered x).shadow = configCheck s.shadow :=
  configCheck_congr (offered_agreeOn (by decide))

theorem offered_readConfig : readConfig (s.offered x).shadow = readConfig s.shadow :=
  readConfig_congr (offered_agreeOn (by decide))

theorem offered_bankCheck (k : BankId) : bankCheck (s.offered x).shadow k = bankCheck s.shadow k :=
  bankCheck_congr (offered_agreeOn (by cases k <;> decide))

/-! ### START_LINE (R2, R3, R132) -/

theorem startLine_of_checked (hidle : s.lineState = .idle) (hconfig : configCheck s.shadow = none)
    (hbank : bankCheck s.shadow s.banks.active = none) : s.startLine = (s.start, plainAnswer .ok) := by
  simp only [State.startLine, hidle, hconfig, hbank, ne_eq, not_true_eq_false, if_false]

theorem startLine_of_notIdle (h : s.lineState ≠ .idle) : s.startLine = (s, plainAnswer .wrongState) := if_pos h

theorem startLine_of_badConfig {item index : Nat} (hidle : s.lineState = .idle)
    (hconfig : configCheck s.shadow = some (item, index)) : s.startLine = (s, ⟨.badConfig, item, index⟩) := by
  simp only [State.startLine, hidle, hconfig, ne_eq, not_true_eq_false, if_false]

theorem startLine_of_badTable {item index : Nat} (hidle : s.lineState = .idle) (hconfig : configCheck s.shadow = none)
    (hbank : bankCheck s.shadow s.banks.active = some (item, index)) : s.startLine = (s, ⟨.badTable, item, index⟩) := by
  simp only [State.startLine, hidle, hconfig, hbank, ne_eq, not_true_eq_false, if_false]

theorem drainLine_of_notRun (h : s.lineState ≠ .run) : s.drainLine = (s, plainAnswer .wrongState) := if_pos h

theorem stopLine_of_notRunning (h : s.running = false) : s.stopLine = (s, plainAnswer .wrongState) :=
  if_neg (by rw [h]; exact Bool.false_ne_true)

/-- R132: the bins after the bin of one index is fixed, whether or not its record changed. -/
theorem fixBin_bins (c : LineConfig) (i : Fin 40) {n : Fin 41} (hn : n.val = i.val + 1) :
    (s.fixBin c i).bins = s.bins.set n (s.bins[n].fixed c.capacity[i] c.alternate[i]) := by
  obtain rfl : ⟨i.val + 1, Nat.succ_lt_succ i.isLt⟩ = n := Fin.ext hn.symm
  unfold State.fixBin
  dsimp only
  split
  case isTrue hsame =>
    rw [hsame]
    exact (Vector.set_getElem_self (by omega)).symm
  case isFalse => exact publish_bins _ _ _

theorem forEach_fixBin_other {c : LineConfig} {n : Fin 41} {is : List (Fin 40)} (h : ∀ i ∈ is, i.val + 1 ≠ n.val) :
    (s.forEach is fun u i => u.fixBin c i).bins[n] = s.bins[n] := by
  induction is generalizing s with
  | nil => rfl
  | cons i is ih =>
    obtain ⟨hne, hrest⟩ := List.forall_mem_cons.mp h
    refine (ih (s := s.fixBin c i) hrest).trans ?_
    rw [fixBin_bins c i (n := ⟨i.val + 1, by omega⟩) rfl]
    exact get_set_ne fun heq => hne (congrArg Fin.val heq)

theorem forEach_fixBin_listed {c : LineConfig} {n : Fin 41} {i : Fin 40} (hn : n.val = i.val + 1) {is : List (Fin 40)}
    (hi : i ∈ is) (hnodup : is.Nodup) :
    (s.forEach is fun u j => u.fixBin c j).bins[n] = s.bins[n].fixed c.capacity[i] c.alternate[i] := by
  induction is generalizing s with
  | nil => exact nomatch hi
  | cons j is ih =>
    obtain ⟨hnot, hrest⟩ := List.nodup_cons.mp hnodup
    by_cases hj : j = i
    · subst hj
      refine (forEach_fixBin_other (s := s.fixBin c j) fun k hk heq => hnot ?_).trans ?_
      · rwa [show j = k from Fin.ext (by omega)]
      · rw [fixBin_bins c j hn]
        exact get_set_self _ _ _
    · refine (ih (s := s.fixBin c j) ((List.mem_cons.mp hi).resolve_left (Ne.symm hj)) hrest).trans ?_
      rw [fixBin_bins c j (n := ⟨j.val + 1, by omega⟩) rfl]
      rw [get_set_ne fun heq => hj (Fin.ext (by have := congrArg Fin.val heq; simp only at this; omega))]

/-- The line started, before its first run and its bins (R3). -/
def State.begun (s : State) : State :=
  { s with config := some (readConfig s.shadow), lugLine := Vector.replicate 64 none, lineState := .run }

theorem openFirstRun_runs : s.openFirstRun.runs = if s.runs.noneInUse then s.runs.open 0 else s.runs := by
  unfold State.openFirstRun
  split
  · exact openRun_runs _ _
  · rfl

/-- The bins of a start leave all but themselves and what is published. -/
theorem start_only : OnlyChanges [.bins, .stamps, .publications] s.begun.openFirstRun s.start := by
  have hbins : OnlyChanges [.bins, .stamps, .publications] s.begun.openFirstRun
      (s.begun.openFirstRun.forEach (List.finRange 40) fun u i => u.fixBin (readConfig s.shadow) i) :=
    (onlyChanges_forEach fun u i => (fixBin_frame _ i (by simp)).mpr (.refl _ _)).mpr (.refl _ _)
  exact (publish_frame .lugTracker .status (by simp)).mpr hbins

theorem start_bins (n : Fin 41) : s.start.bins[n] =
    (s.begun.openFirstRun.forEach (List.finRange 40) fun u i => u.fixBin (readConfig s.shadow) i).bins[n] := by
  have hbins : s.start.bins = _ := publish_bins _ _ _
  rw [hbins]
  rfl

theorem begun_bins : s.begun.openFirstRun.bins = s.bins := by
  have honly : OnlyChanges [.runs, .stamps, .publications] s.begun s.begun.openFirstRun :=
    (openFirstRun_frame (by simp)).mpr (.refl _ _)
  exact honly .bins (by simp)

theorem start_begun : OnlyChanges [.runs, .bins, .stamps, .publications] s.begun s.start := by
  have honly : OnlyChanges [.runs, .stamps, .publications] s.begun s.begun.openFirstRun :=
    (openFirstRun_frame (by simp)).mpr (.refl _ _)
  exact (honly.mono (by simp)).trans (start_only.mono (by simp))

/-! ### BANK_SWITCH (R171, R172) -/

/-- The entry that BANK_SWITCH gives (Table 10-2). -/
def bankSwitchEntry (bank lug : Half) : CommandEntry := ⟨4, bank, lug⟩

theorem exec_bankSwitch (s : State) (bank lug : Half) :
    exec (.bankSwitch bank lug) s = .next (s.given (bankSwitchEntry bank lug)) := rfl

theorem doCommand_bankSwitchEntry (s : State) (bank lug : Half) :
    s.doCommand (bankSwitchEntry bank lug).command = s.bankSwitch bank lug := rfl

/-- Test 5 of R171 fails for a lug that is not 1 to 255 ahead, in RUN and DRAIN. -/
def State.Far (s : State) (lug : Half) : Prop := s.running = true ∧ ((lug - s.lc).toNat = 0 ∨ 255 < (lug - s.lc).toNat)

theorem lugSuits_eq_false_iff {lug : Half} : s.lugSuits lug = false ↔ s.Far lug := by
  unfold State.lugSuits State.Far
  cases s.running with
  | false => simp
  | true =>
    simp only [Bool.not_true, Bool.false_or, Bool.and_eq_false_iff, decide_eq_false_iff_not, true_and]
    omega

theorem offered_far {lug : Half} : (s.offered x).Far lug ↔ s.Far lug := by
  rw [State.Far, State.Far, offered_running, offered_lc]

section Tests

variable {bank lug : Half}

theorem bankSwitch_of_badBank (h : 1 < bank.toNat) : s.bankSwitch bank lug = (s, plainAnswer .range) := if_pos h

theorem bankSwitch_of_active (hbank : bank.toNat ≤ 1) (h : s.banks.state (bankOf bank) = .active) :
    s.bankSwitch bank lug = (s, plainAnswer .range) :=
  (if_neg (Nat.not_lt.mpr hbank)).trans (if_pos h)

theorem bankSwitch_of_held (hbank : bank.toNat ≤ 1) (h : s.banks.state (bankOf bank) = .held) :
    s.bankSwitch bank lug = (s, plainAnswer .bankHeld) :=
  (if_neg (Nat.not_lt.mpr hbank)).trans ((if_neg (by rw [h]; decide)).trans (if_pos h))

/-- Tests 1 to 3 of R171 passed. -/
theorem bankSwitch_of_spare (hbank : bank.toNat ≤ 1) (h : s.banks.state (bankOf bank) = .spare) :
    s.bankSwitch bank lug =
      if s.banks.pendingSwitch ≠ none then (s, plainAnswer .switchPending)
      else if s.lugSuits lug = false then (s, plainAnswer .range)
      else
        match bankCheck s.shadow (bankOf bank) with
        | some (item, index) => (s, ⟨.badTable, item, index⟩)
        | none => s.acceptSwitch (bankOf bank) lug :=
  (if_neg (Nat.not_lt.mpr hbank)).trans ((if_neg (by rw [h]; decide)).trans (if_neg (by rw [h]; decide)))

end Tests

theorem makeSwitch_banks {k : BankId} {n : Half} : (s.makeSwitch k n).banks =
    { (s.banks.setState k .active).setState k.other (if 0 < s.banks.refs k.other then .held else .spare) with
      pendingSwitch := none } :=
  (publish_banks _ _ _).trans (raise_banks _ _)

theorem makeSwitch_notices {k : BankId} {n : Half} : (s.makeSwitch k n).notices =
    (s.raise (.bankSwitched k (.made n (if 0 < s.banks.refs k.other then .held else .spare)))).notices :=
  (publish_notices _ _ _).trans (raise_notices_congr (by rfl) (by rfl) _)

end Sys2Proof.Machine

namespace Sys2Proof.Proofs

open Sys2Proof.Machine

/-- Settles O31: the start of the line where the entry is taken, and its bins one by one. -/
theorem startLineStarts : Obligations.StartLineStarts := by
  intro s htakes hidle hconfig hbank c
  have hdo := startLine_of_checked (s := s.offered startLineEntry) (by rw [offered_lineState, hidle])
    (by rw [offered_configCheck, hconfig]) (by rw [offered_banks, offered_bankCheck, hbank])
  rw [← doCommand_startLineEntry] at hdo
  have heffect := given_effect htakes hdo
  have hbegun : OnlyChanges [.runs, .bins, .stamps, .publications] (s.offered startLineEntry).begun
      (s.offered startLineEntry).start := start_begun
  have hline : (s.given startLineEntry).lineState = .run :=
    Eq.trans (heffect .lineState (by simp)) (hbegun .lineState (by simp))
  have hkept : (s.given startLineEntry).config = some (readConfig (s.offered startLineEntry).shadow) :=
    Eq.trans (heffect .config (by simp)) (hbegun .config (by simp))
  have hlugs : (s.given startLineEntry).lugLine = Vector.replicate 64 none :=
    Eq.trans (heffect .lugLine (by simp)) (hbegun .lugLine (by simp))
  have hruns : (s.given startLineEntry).runs = (s.offered startLineEntry).begun.openFirstRun.runs :=
    Eq.trans (heffect .runs (by simp)) (start_only .runs (by simp))
  have hbins : (s.given startLineEntry).bins = (s.offered startLineEntry).start.bins := heffect .bins (by simp)
  refine ⟨_, exec_startLine s, hline, by rw [hkept, offered_readConfig], fun i => ?_, ?_, ?_, fun i n hn => ?_,
    given_answered htakes hdo, ?_⟩
  · rw [hlugs]
    exact Vector.getElem_replicate i.isLt
  · rw [hruns, openFirstRun_runs, State.begun, offered_runs]
  · rw [hbins, start_bins, forEach_fixBin_other (by simp), begun_bins, offered_bins]
  · rw [hbins, start_bins, forEach_fixBin_listed hn (List.mem_finRange i) (List.nodup_finRange 40), begun_bins, offered_bins,
      offered_readConfig]
    rfl
  · exact given_publishing_frame (T := [.lineState, .config, .lugLine, .runs, .bins]) htakes
      (by simp [doCommand_startLineEntry])

/-- Settles O32: each refusal leaves the state in which the entry is taken. -/
theorem lineCommandsRefused : Obligations.LineCommandsRefused := by
  intro s c answer htakes hcase
  have hrefused : ∀ (x : CommandEntry) (a : CommandAnswer), exec c s = .next (s.given x) → answer = a.bytes s.lc →
      (s.offered x).doCommand x.command = (s.offered x, a) →
      ∃ t, exec c s = .next t ∧ Answered s t .command answer ∧ OnlyChanges commandTraces s t := by
    intro x a hexec ha hdo
    obtain ⟨hanswer, -, hframe⟩ := given_of_unchanged htakes hdo
    exact ⟨_, hexec, ha ▸ hanswer, hframe⟩
  rcases hcase with ⟨rfl, hstate, rfl⟩ | ⟨rfl, hstate, rfl⟩ | ⟨rfl, hstate, rfl⟩ | ⟨item, index, rfl, hidle, hconfig, rfl⟩ |
    ⟨item, index, rfl, hidle, hconfig, hbank, rfl⟩
  · refine hrefused startLineEntry (plainAnswer .wrongState) rfl rfl ?_
    rw [doCommand_startLineEntry, startLine_of_notIdle (by rwa [offered_lineState])]
  · refine hrefused drainLineEntry (plainAnswer .wrongState) rfl rfl ?_
    rw [doCommand_drainLineEntry, drainLine_of_notRun (by rwa [offered_lineState])]
  · refine hrefused stopLineEntry (plainAnswer .wrongState) rfl rfl ?_
    rw [doCommand_stopLineEntry, stopLine_of_notRunning (by rwa [offered_running])]
  · refine hrefused startLineEntry ⟨.badConfig, item, index⟩ rfl rfl ?_
    rw [doCommand_startLineEntry, startLine_of_badConfig (by rwa [offered_lineState]) (by rwa [offered_configCheck])]
  · refine hrefused startLineEntry ⟨.badTable, item, index⟩ rfl rfl ?_
    rw [doCommand_startLineEntry, startLine_of_badTable (by rwa [offered_lineState]) (by rwa [offered_configCheck])
      (by rwa [offered_banks, offered_bankCheck])]

/-- Settles O36: each test leaves the state in which the entry is taken. -/
theorem bankSwitchRefused : Obligations.BankSwitchRefused := by
  intro s bank lug answer htakes k far hcase
  have hrefused : ∀ a : CommandAnswer, answer = a.bytes s.lc →
      (s.offered (bankSwitchEntry bank lug)).bankSwitch bank lug = (s.offered (bankSwitchEntry bank lug), a) →
      ∃ t, exec (.bankSwitch bank lug) s = .next t ∧ Answered s t .command answer ∧ OnlyChanges commandTraces s t := by
    intro a ha hdo
    obtain ⟨hanswer, -, hframe⟩ := given_of_unchanged (x := bankSwitchEntry bank lug) htakes hdo
    exact ⟨_, exec_bankSwitch s bank lug, ha ▸ hanswer, hframe⟩
  rcases hcase with ⟨hbank, rfl⟩ | ⟨hbank, hstate, rfl⟩ | ⟨hbank, hstate, rfl⟩ | ⟨hbank, hstate, hpending, rfl⟩ |
    ⟨hbank, hstate, hpending, hfar, rfl⟩ | ⟨item, index, hbank, hstate, hpending, hfar, hcheck, rfl⟩
  · exact hrefused (plainAnswer .range) rfl (bankSwitch_of_badBank hbank)
  · exact hrefused (plainAnswer .range) rfl (bankSwitch_of_active hbank (by rwa [offered_banks]))
  · exact hrefused (plainAnswer .bankHeld) rfl (bankSwitch_of_held hbank (by rwa [offered_banks]))
  · refine hrefused (plainAnswer .switchPending) rfl ?_
    rw [bankSwitch_of_spare hbank (by rwa [offered_banks]), if_pos (by rwa [offered_banks])]
  · refine hrefused (plainAnswer .range) rfl ?_
    rw [bankSwitch_of_spare hbank (by rwa [offered_banks]), if_neg (by rwa [offered_banks, not_not]),
      if_pos (lugSuits_eq_false_iff.mpr (offered_far.mpr hfar))]
  · refine hrefused ⟨.badTable, item, index⟩ rfl ?_
    rw [bankSwitch_of_spare hbank (by rwa [offered_banks]), if_neg (by rwa [offered_banks, not_not]),
      if_neg (lugSuits_eq_false_iff.not.mpr (offered_far.not.mpr hfar)), offered_bankCheck, hcheck]

/-- Settles O35: every test passed, the switch is made at once or is pending. -/
theorem bankSwitchAccepted : Obligations.BankSwitchAccepted := by
  intro s bank lug htakes hbank hstate hpending hcheck hnear old
  have hdo : (s.offered (bankSwitchEntry bank lug)).doCommand (bankSwitchEntry bank lug).command =
      (s.offered (bankSwitchEntry bank lug)).acceptSwitch (bankOf bank) lug := by
    have hfar : ¬s.Far lug := by
      rintro ⟨hrun, hlug⟩
      have := hnear hrun
      omega
    rw [doCommand_bankSwitchEntry, bankSwitch_of_spare hbank (by rwa [offered_banks]),
      if_neg (by rwa [offered_banks, not_not]), if_neg (lugSuits_eq_false_iff.not.mpr (offered_far.not.mpr hfar)),
      offered_bankCheck, hcheck]
  refine ⟨_, exec_bankSwitch s bank lug, given_publishing_frame (T := [.banks, .notices]) htakes (by
    simp [doCommand_bankSwitchEntry]), fun hidle => ?_, fun hrun => ?_⟩
  · rw [State.acceptSwitch, if_neg (by rw [offered_running, hidle]; exact Bool.false_ne_true)] at hdo
    have heffect := given_effect htakes hdo
    have hbanks : (s.given (bankSwitchEntry bank lug)).banks = _ := Eq.trans (heffect .banks (by simp)) makeSwitch_banks
    have hnotices : (s.given (bankSwitchEntry bank lug)).notices = _ :=
      Eq.trans (heffect .notices (by simp)) makeSwitch_notices
    rw [offered_banks] at hbanks hnotices
    rw [offered_lc, offered_raise_notices] at hnotices
    rw [hbanks]
    refine ⟨?_, ?_, ?_, ?_, rfl, hnotices, given_answered htakes hdo⟩ <;> simp only [old] <;> cases bankOf bank <;> rfl
  · rw [State.acceptSwitch, if_pos (by rw [offered_running, hrun])] at hdo
    have heffect := given_effect htakes hdo
    have hbanks : (s.given (bankSwitchEntry bank lug)).banks = _ := Eq.trans (heffect .banks (by simp)) (publish_banks _ _ _)
    have hnotices : (s.given (bankSwitchEntry bank lug)).notices = _ :=
      Eq.trans (heffect .notices (by simp)) (publish_notices _ _ _)
    refine ⟨hbanks.trans ?_, hnotices.trans (offered_notices s (bankSwitchEntry bank lug)),
      given_answered htakes hdo⟩
    rw [offered_banks]
    rfl

end Sys2Proof.Proofs
end

section
/-! What an override given out of INIT comes to, once it is known what the override unit decides in the state in which it
takes the entry (R102, R103, R160): the answer, its counter and the frame; then the refusals of the first tests. -/

namespace Sys2Proof.Machine

/-- The state in which the override unit takes an entry that a row of the table gives (log entry 8). -/
def State.proffered (s : State) (x : OverrideEntry) : State := s.beginEvent.announced .override x.bytes

/-- The state after the row that gives an entry. -/
def State.overridden (s : State) (x : OverrideEntry) : State := s.beginEvent.giveOverride x

theorem proffered_only (s : State) (x : OverrideEntry) :
    OnlyChanges [.ovrRing, .shadow, .event, .ports] s (s.proffered x) :=
  have hbegin : OnlyChanges [.event, .ports] s s.beginEvent := (beginEvent_frame (by simp)).mpr (OnlyChanges.refl _ _)
  (hbegin.mono (by simp)).trans ((announced_override_frame _ _).mono (by simp))

section Fields

variable (s : State) (x : OverrideEntry)

@[simp] theorem proffered_lc : (s.proffered x).lc = s.lc := proffered_only s x .lc (by simp)

@[simp] theorem proffered_config : (s.proffered x).config = s.config := proffered_only s x .config (by simp)

@[simp] theorem proffered_lineState : (s.proffered x).lineState = s.lineState := proffered_only s x .lineState (by simp)

@[simp] theorem proffered_held : (s.proffered x).held = s.held := proffered_only s x .held (by simp)

@[simp] theorem proffered_lugLine : (s.proffered x).lugLine = s.lugLine := proffered_only s x .lugLine (by simp)

@[simp] theorem proffered_boards : (s.proffered x).boards = s.boards := proffered_only s x .boards (by simp)

@[simp] theorem proffered_solver : (s.proffered x).solver = s.solver := proffered_only s x .solver (by simp)

@[simp] theorem proffered_stats : (s.proffered x).stats = s.stats := proffered_only s x .stats (by simp)

@[simp] theorem proffered_notices : (s.proffered x).notices = s.notices := proffered_only s x .notices (by simp)

@[simp] theorem proffered_routes : (s.proffered x).routes = s.routes := proffered_only s x .routes (by simp)

@[simp] theorem proffered_initialRest : (s.proffered x).path.initialRest = s.path.initialRest :=
  proffered_only s x .initialRest (by simp)

theorem proffered_stamp (r : Record) : (s.proffered x).stamp r = s.stamp r := (proffered_only s x).stamp (by simp) r

@[simp] theorem proffered_running : (s.proffered x).running = s.running := by
  rw [State.running, State.running, proffered_lineState]

@[simp] theorem proffered_distance (lug : Half) : (s.proffered x).distance lug = s.distance lug := by
  rw [State.distance, State.distance, proffered_lc]

@[simp] theorem proffered_sortS : (s.proffered x).sortS = s.sortS := by rw [State.sortS, State.sortS, proffered_config]

@[simp] theorem proffered_entry (lug : Half) : (s.proffered x).entry lug = s.entry lug :=
  entry_congr (proffered_lugLine s x) lug

@[simp] theorem proffered_rank (station : Fin 8) : (s.proffered x).rank station = s.rank station := by
  rw [State.rank, State.rank, proffered_config]

@[simp] theorem proffered_rankPasses (station : Fin 8) (o : Option Override) :
    (s.proffered x).rankPasses station o = s.rankPasses station o := by
  cases o <;> simp [State.rankPasses]

@[simp] theorem proffered_heldFor (lug : Half) : (s.proffered x).heldFor lug = s.heldFor lug := by
  rw [State.heldFor, State.heldFor, proffered_held]

end Fields

variable {s u : State} {x : OverrideEntry} {a : OverrideAnswer}

theorem overridden_answered (h : s.Takes .override) (hdo : (s.proffered x).decideOverride x = (u, a)) :
    Answered s (s.overridden x) .override (a.bytes s.lc) := by
  have ht : Answered s.beginEvent (s.overridden x) .override (((s.proffered x).decideOverride x).2.bytes s.lc) :=
    giveOverride_answered s.beginEvent h.beginEvent x
  rw [hdo] at ht
  exact ⟨ht.answer, ht.counts, ht.shadow⟩

theorem overridden_effect (h : s.Takes .override) (hdo : (s.proffered x).decideOverride x = (u, a)) :
    OnlyChanges [.ovrRing, .shadow, .stamps, .publications] (u.bump a.code.stat) (s.overridden x) := by
  have ht : OnlyChanges _ (((s.proffered x).decideOverride x).1.bump ((s.proffered x).decideOverride x).2.code.stat)
      (s.overridden x) := giveOverride_effect s.beginEvent h.beginEvent x
  rwa [hdo] at ht

/-- The counter of the answer, on the counters as the decision left them. -/
theorem overridden_stats {k : Stat} (h : s.Takes .override) (hdo : (s.proffered x).decideOverride x = (u, a))
    (hk : a.code.stat = k) : (s.overridden x).stats = u.stats.set k.index (satAdd u.stats[k.index] 1) := by
  subst hk
  exact overridden_effect h hdo .stats (by simp)

/-- R160: beside the status block, the taking republishes what the decision did. -/
theorem overridden_stamp (h : s.Takes .override) (hdo : (s.proffered x).decideOverride x = (u, a)) {r : Record}
    (hr : r ≠ .status) : (s.overridden x).stamp r = u.stamp r := by
  obtain ⟨v, hv, hgiven⟩ : ∃ v, OnlyChanges [.ovrRing, .shadow, .stats, .publications] u v ∧
      s.overridden x = v.publish .override .status := by
    refine ⟨_, ?_, giveOverride_taken s.beginEvent h.beginEvent x⟩
    change OnlyChanges _ u (State.setCounts ((s.proffered x).takeOverride _ x) .override _)
    simp [setCounts_override_frame, State.takeOverride, hdo]
  rw [hgiven, stamp_publish, if_neg fun hrec => hr hrec.1, hv.stamp (by simp)]

/-- A taken entry changes what its decision changes and republishes, beside the traces of its taking. -/
theorem overridden_frame {T : List Field} (h : s.Takes .override) (hdo : (s.proffered x).decideOverride x = (u, a))
    (hframe : OnlyChanges (T ++ [.stats, .stamps, .publications]) (s.proffered x) u) :
    OnlyChanges (T ++ overrideTraces) s (s.overridden x) := by
  have htraces : ∀ f ∈ ([.stats, .stamps, .publications] : List Field), f ∈ overrideTraces := by simp [overrideTraces]
  have hbump : OnlyChanges [.stats] u (u.bump a.code.stat) := (bump_frame _ (by simp)).mpr (.refl _ _)
  refine OnlyChanges.trans ((proffered_only s x).mono (by simp [overrideTraces])) ((hframe.mono fun f hf => ?_).trans
    ((hbump.mono (by simp [overrideTraces])).trans ((overridden_effect h hdo).mono (by simp [overrideTraces]))))
  rcases List.mem_append.mp hf with hf | hf
  · exact List.mem_append_left _ hf
  · exact List.mem_append_right _ (htraces f hf)

/-- A decision that changes nothing leaves its answer, its counter and the traces of its taking. -/
theorem overridden_of_unchanged {k : Stat} (h : s.Takes .override)
    (hdo : (s.proffered x).decideOverride x = (s.proffered x, a)) (hk : a.code.stat = k) :
    (s.overridden x).stats = s.stats.set k.index (satAdd s.stats[k.index] 1) ∧
      Answered s (s.overridden x) .override (a.bytes s.lc) ∧ OnlyChanges overrideTraces s (s.overridden x) := by
  refine ⟨?_, overridden_answered h hdo, overridden_frame (T := []) h hdo (.refl _ _)⟩
  rw [overridden_stats h hdo hk, proffered_stats]

/-! ### The entry of a row, and the first tests (R103, R104) -/

/-- The entry that a row gives. -/
def overrideEntry (station : Fin 8) (lug : Half) : Option OverrideAction → OverrideEntry
  | some (.grade g) => ⟨BitVec.ofNat 8 station.val, 1, lug, BitVec.ofNat 8 g.val, 0, 0⟩
  | some (.trim a b) => ⟨BitVec.ofNat 8 station.val, 2, lug, 0, BitVec.ofNat 8 a.val, BitVec.ofNat 8 b.val⟩
  | some .reman => ⟨BitVec.ofNat 8 station.val, 3, lug, 0, 0, 0⟩
  | none => ⟨BitVec.ofNat 8 station.val, 4, lug, 0, 0, 0⟩

section Rows

variable {station : Fin 8} {lug : Half} {action : Option OverrideAction} {e : LugEntry}

theorem exec_overrideRow (s : State) (station : Fin 8) (lug : Half) (action : Option OverrideAction) :
    exec (overrideRow station lug action) s = .next (s.overridden (overrideEntry station lug action)) := by
  rcases action with - | ⟨g⟩ | ⟨a, b⟩ | - <;> rfl

theorem overrideEntry_lug : (overrideEntry station lug action).lug = lug := by
  rcases action with - | ⟨g⟩ | ⟨a, b⟩ | - <;> rfl

theorem toNat_ofNat_byte {n : Nat} (h : n < 256) : (BitVec.ofNat 8 n).toNat = n := by
  rw [BitVec.toNat_ofNat, Nat.mod_eq_of_lt h]

/-- R103: the fields of a row's entry are in range, and name what the row does. -/
theorem overrideEntry_request (hordered : trimOrdered action) :
    (overrideEntry station lug action).request = some (station, action) := by
  have hstation : (BitVec.ofNat 8 station.val).toNat = station.val := toNat_ofNat_byte (by omega)
  rcases action with - | ⟨g⟩ | ⟨a, b⟩ | -
  · simp [overrideEntry, OverrideEntry.request, hstation]
  · have hgrade : (BitVec.ofNat 8 g.val).toNat = g.val := toNat_ofNat_byte (by omega)
    simp [overrideEntry, OverrideEntry.request, hstation, hgrade]
  · have ha : (BitVec.ofNat 8 a.val).toNat = a.val := toNat_ofNat_byte (by omega)
    have hb : (BitVec.ofNat 8 b.val).toNat = b.val := toNat_ofNat_byte (by omega)
    have hlt : a.val < b.val := hordered
    simp [overrideEntry, OverrideEntry.request, hstation, ha, hb, hlt]
  · simp [overrideEntry, OverrideEntry.request, hstation]

/-- In RUN or DRAIN, with its fields in range, an entry is decided by the stage of its lug. -/
theorem decideOverride_row (hrun : s.running = true) (hordered : trimOrdered action) :
    s.decideOverride (overrideEntry station lug action) = s.overrideStage lug station action := by
  rw [State.decideOverride, if_neg (by rw [hrun]; exact Bool.noConfusion), overrideEntry_request hordered,
    overrideEntry_lug]

theorem overrideStage_future (hfar : 65504 ≤ s.distance lug) :
    s.overrideStage lug station action = s.holdOverride lug station action := if_pos hfar

/-- R104: a lug in the line, before its sort position, is decided by its entry. -/
theorem overrideStage_inLine (hsort : s.distance lug < s.sortS) (hnear : s.distance lug < 32768)
    (he : s.entry lug = some e) : s.overrideStage lug station action = s.overrideInLine e station action := by
  unfold State.overrideStage
  dsimp only
  rw [if_neg (by omega), if_neg (by omega), if_neg (by omega), he]

theorem overrideInLine_board {i : Fin 64} (he : e.board = some i) (hstate : s.boards[i].state ≠ .committed) :
    s.overrideInLine e station action = s.overrideBoard i e.lug station action := by
  rw [State.overrideInLine, he]
  exact if_neg hstate

theorem overrideInLine_committed {i : Fin 64} (he : e.board = some i) (hstate : s.boards[i].state = .committed) :
    s.overrideInLine e station action = s.overrideCommitted i e.lug station action := by
  rw [State.overrideInLine, he]
  exact if_pos hstate

theorem overrideInLine_empty (he : e.board = none) :
    s.overrideInLine e station action =
      if e.closed then (s, ⟨.noBoard, none, none⟩) else s.overrideEntry e station action := by
  rw [State.overrideInLine, he]

theorem rankPasses_some_eq_false {o : Override} (h : s.rank o.station < s.rank station) :
    s.rankPasses station (some o) = false := decide_eq_false (Nat.not_le.mpr h)

end Rows

/-- The other station of an answer is shown as the station byte of the holder. -/
theorem bytes_station (code : OverrideCode) (seen : Option BoardState) (o : Option Override) (lc : Half) :
    (OverrideAnswer.bytes ⟨code, seen, o.map Override.station⟩ lc) =
      overrideAnswerBytes code.code ((seen.map BoardState.code).getD 0) lc (stationByte o) := by
  cases o <;> rfl

end Sys2Proof.Machine

namespace Sys2Proof.Proofs

open Sys2Proof.Machine

/-- Settles O29: each stage that refuses leaves the state in which the entry is taken. -/
theorem overrideRefusedByStage : Obligations.OverrideRefusedByStage := by
  intro s station lug a code seen htakes hrun hordered hcase
  have hrefused : ∀ (n : OverrideCode) (st : Option BoardState), n.stat = .overridesRefused → code = n.code →
      seen = (st.map BoardState.code).getD 0 →
      (s.proffered (overrideEntry station lug a)).overrideStage lug station a =
        (s.proffered (overrideEntry station lug a), ⟨n, st, none⟩) →
      ∃ t, exec (overrideRow station lug a) s = .next t ∧ t.stats = s.stats.set 18 (satAdd s.stats[18] 1) ∧
        Answered s t .override (overrideAnswerBytes code seen s.lc 0xFF) ∧ OnlyChanges overrideTraces s t := by
    intro n st hstat hcode hseen hstage
    have hdo := (decideOverride_row (s := s.proffered (overrideEntry station lug a)) (by rw [proffered_running, hrun])
      hordered).trans hstage
    obtain ⟨hstats, hanswer, hframe⟩ := overridden_of_unchanged htakes hdo hstat
    subst hcode hseen
    exact ⟨_, exec_overrideRow s station lug a, hstats, hanswer, hframe⟩
  rcases hcase with ⟨hcode, hseen, hnear, hgone⟩ | ⟨hcode, hseen, hfar, hbound⟩ |
    ⟨e, hcode, hseen, hsort, hnear, he, hboard, hclosed⟩ | ⟨e, i, hcode, hseen, hsort, hnear, he, hboard, hstate, hkind⟩
  · refine hrefused .tooLate none rfl hcode hseen ?_
    unfold State.overrideStage
    dsimp only
    rw [proffered_distance, proffered_sortS, proffered_entry, if_neg (by omega), if_neg (by omega)]
    rcases hgone with hgone | hgone
    · rw [if_pos hgone]
    · rw [hgone]
      exact ite_self _
  · refine hrefused .tooEarly none rfl hcode hseen ?_
    unfold State.overrideStage
    dsimp only
    rw [proffered_distance, if_neg (by omega), if_pos hfar]
  · refine hrefused .noBoard none rfl hcode hseen ?_
    rw [overrideStage_inLine (by rwa [proffered_distance, proffered_sortS]) (by rwa [proffered_distance])
      (by rwa [proffered_entry]), overrideInLine_empty hboard, if_pos hclosed]
  · refine hrefused .tooLate (some .committed) rfl hcode hseen ?_
    rw [overrideStage_inLine (by rwa [proffered_distance, proffered_sortS]) (by rwa [proffered_distance])
      (by rwa [proffered_entry]), overrideInLine_committed hboard (by rwa [proffered_boards])]
    rcases hkind with rfl | ⟨x, y, rfl⟩ <;> rw [State.overrideCommitted, proffered_boards, hstate]

/-- Settles O30: a field out of range is no request, in RUN and DRAIN; in IDLE no field is read. -/
theorem overrideBadField : Obligations.OverrideBadField := by
  intro s station kind x y lug c htakes hcase
  have hbad : ∀ z : OverrideEntry, exec c s = .next (s.overridden z) → z.request = none →
      ∃ t, exec c s = .next t ∧ t.stats = s.stats.set 18 (satAdd s.stats[18] 1) ∧
        Answered s t .override (overrideAnswerBytes (if s.running then 5 else 4) 0 s.lc 0xFF) ∧
        OnlyChanges overrideTraces s t := by
    intro z hexec hrequest
    by_cases hrun : s.running = true
    · have hdo : (s.proffered z).decideOverride z = (s.proffered z, ⟨.badField, none, none⟩) := by
        rw [State.decideOverride, if_neg (by rw [proffered_running, hrun]; exact Bool.noConfusion), hrequest]
      obtain ⟨hstats, hanswer, hframe⟩ := overridden_of_unchanged htakes hdo (k := .overridesRefused) rfl
      rw [if_pos hrun]
      exact ⟨_, hexec, hstats, hanswer, hframe⟩
    · have hdo : (s.proffered z).decideOverride z = (s.proffered z, ⟨.notRunning, none, none⟩) := by
        rw [State.decideOverride, if_pos (by rwa [proffered_running, ← Bool.not_eq_true])]
      obtain ⟨hstats, hanswer, hframe⟩ := overridden_of_unchanged htakes hdo (k := .overridesRefused) rfl
      rw [if_neg hrun]
      exact ⟨_, hexec, hstats, hanswer, hframe⟩
  rcases hcase with ⟨rfl, hfield⟩ | ⟨rfl, hfield⟩ | ⟨rfl, hfield⟩ | ⟨rfl, hfield⟩ | ⟨rfl, hwf⟩
  · refine hbad ⟨station, 1, lug, x, 0, 0⟩ rfl ?_
    by_cases hstation : station.toNat < 8
    · simp only [OverrideEntry.request, dif_pos hstation]
      exact dif_neg (by omega)
    · exact dif_neg hstation
  · refine hbad ⟨station, 2, lug, 0, x, y⟩ rfl ?_
    by_cases hstation : station.toNat < 8
    · simp only [OverrideEntry.request, dif_pos hstation]
      exact dif_neg (by omega)
    · exact dif_neg hstation
  · exact hbad ⟨station, 3, lug, 0, 0, 0⟩ rfl (dif_neg (Nat.not_lt.mpr hfield))
  · exact hbad ⟨station, 4, lug, 0, 0, 0⟩ rfl (dif_neg (Nat.not_lt.mpr hfield))
  · refine hbad ⟨station, kind, lug, 0, 0, 0⟩ rfl ?_
    have hkind : ¬(1 ≤ kind.toNat ∧ kind.toNat ≤ 4) := by
      simp only [Instr.wf, Bool.not_eq_true', Bool.and_eq_false_iff, decide_eq_false_iff_not] at hwf
      omega
    by_cases hstation : station.toNat < 8
    · simp only [OverrideEntry.request, dif_pos hstation]
      split <;> first | rfl | omega
    · exact dif_neg hstation

end Sys2Proof.Proofs
end

section
/-! Overrides for future lugs and lugs with no board (R105 to R108), those outranked, and late ones (R112, R126). -/

namespace Sys2Proof.Machine

variable {s t u : State} {station : Fin 8} {lug : Half} {action : Option OverrideAction}

/-! ### Replacement (R105) -/

/-- The notices of a replacement go where they would have gone before. -/
theorem supersede_notices {old : Option Override} {x : OverrideAction} (hnotices : t.notices = s.notices)
    (hroutes : t.routes = s.routes) :
    (t.supersede lug old ⟨station, x⟩).notices =
      (s.forEach (supersededNotices lug old station (some x)) State.raise).notices := by
  cases old with
  | none => exact hnotices
  | some o => exact raise_notices_congr hnotices hroutes _

theorem supersede_only (old : Option Override) (new : Override) :
    OnlyChanges [.notices, .stamps, .publications] s (s.supersede lug old new) :=
  (supersede_frame lug old new (by simp)).mpr (.refl _ s)

/-! ### The held table (R100, R106) -/

theorem insertHeld_congr (h : t.lc = s.lc) (x : HeldOverride) (ys : List HeldOverride) :
    t.insertHeld x ys = s.insertHeld x ys := by
  have hahead : ∀ n, t.ahead n = s.ahead n := fun n => by rw [State.ahead, State.ahead, h]
  induction ys with
  | nil => rfl
  | cons y ys ih => simp only [State.insertHeld, hahead, ih]

theorem setHeld_only (s : State) (held : List HeldOverride) : OnlyChanges [.held] s { s with held := held } := by
  intro f hf
  cases f <;> first | rfl | (simp at hf)

/-- R105, R106: what replacing a held override leaves. -/
theorem replaced_spec {old : Option Override} {x : OverrideAction} :
    let t := (s.replaceHeld lug ⟨station, x⟩).supersede lug old ⟨station, x⟩
    t.held = (s.held.map fun y => if y.lug = lug then ⟨lug, ⟨station, x⟩⟩ else y) ∧ t.stats = s.stats ∧
      t.notices = (s.forEach (supersededNotices lug old station (some x)) State.raise).notices ∧
      OnlyChanges [.held, .notices, .stamps, .publications] s t := by
  intro t
  have hheld : OnlyChanges [.held] s (s.replaceHeld lug ⟨station, x⟩) := setHeld_only s _
  have hraised : OnlyChanges [.notices, .stamps, .publications] (s.replaceHeld lug ⟨station, x⟩) t := supersede_only _ _
  exact ⟨hraised .held (by simp), hraised .stats (by simp), supersede_notices (by rfl) (by rfl),
    (hheld.mono (by simp)).trans (hraised.mono (by simp))⟩

/-- The notices of a replacement where the entry is taken are those it would have raised before. -/
theorem proffered_superseded (x : OverrideEntry) (old : Option Override) (action : Option OverrideAction) :
    ((s.proffered x).forEach (supersededNotices lug old station action) State.raise).notices =
      (s.forEach (supersededNotices lug old station action) State.raise).notices :=
  forEach_raise_notices_congr (proffered_notices s x) (proffered_routes s x) _

section Held

variable {x : OverrideAction} {o : Override}

/-- R106: past the rank test CANCEL drops what is held. -/
theorem holdOverride_cancel (hpass : s.rankPasses station (s.heldFor lug) = true) :
    s.holdOverride lug station none =
      (s.dropHeld lug, ⟨.accepted, none, (s.heldFor lug).map Override.station⟩) := by
  unfold State.holdOverride
  dsimp only
  rw [if_neg (by rw [hpass]; exact Bool.noConfusion)]

theorem holdOverride_replace (hheld : s.heldFor lug = some o) (hrank : s.rank station ≤ s.rank o.station) :
    s.holdOverride lug station (some x) =
      ((s.replaceHeld lug ⟨station, x⟩).supersede lug (some o) ⟨station, x⟩, ⟨.held, none, some o.station⟩) := by
  have hpass : s.rankPasses station (some o) = true := decide_eq_true hrank
  unfold State.holdOverride
  dsimp only
  rw [hheld, if_neg (by rw [hpass]; exact Bool.noConfusion)]

theorem holdOverride_place (hheld : s.heldFor lug = none) :
    s.holdOverride lug station (some x) =
      if s.held.length < 8 then
        ({ s with held := s.insertHeld ⟨lug, ⟨station, x⟩⟩ s.held }, ⟨.held, none, none⟩)
      else (s, ⟨.heldFull, none, none⟩) := by
  unfold State.holdOverride
  dsimp only
  rw [hheld]
  exact if_neg (by simp [State.rankPasses])

/-- R105: an entry outranked by what is held. -/
theorem holdOverride_outranked (hheld : s.heldFor lug = some o) (hrank : s.rank o.station < s.rank station) :
    s.holdOverride lug station action = (s, ⟨.outranked, none, some o.station⟩) := by
  unfold State.holdOverride
  dsimp only
  rw [hheld]
  exact if_pos (rankPasses_some_eq_false hrank)

end Held

/-! ### Entries with no board, and boards, whose holder outranks (R108, R110, R112) -/

theorem overrideEntry_outranked {e : LugEntry} {o : Override} (ho : e.override = some o)
    (hrank : s.rank o.station < s.rank station) :
    s.overrideEntry e station action = (s, ⟨.outranked, none, some o.station⟩) := by
  unfold State.overrideEntry
  rw [ho]
  exact if_pos (rankPasses_some_eq_false hrank)

theorem overrideBoard_outranked {i : Fin 64} {o : Override} (ho : s.boards[i].override = some o)
    (hrank : s.rank o.station < s.rank station) :
    s.overrideBoard i lug station action = (s, ⟨.outranked, some s.boards[i].state, some o.station⟩) := by
  unfold State.overrideBoard
  dsimp only
  rw [ho]
  exact if_pos (rankPasses_some_eq_false hrank)

theorem overrideLate_outranked {i : Fin 64} {o : Override} {x : OverrideAction} (ho : s.boards[i].override = some o)
    (hrank : s.rank o.station < s.rank station) :
    s.overrideLate i lug station x = (s, ⟨.outranked, some s.boards[i].state, some o.station⟩) := by
  unfold State.overrideLate
  dsimp only
  rw [ho]
  exact if_pos (rankPasses_some_eq_false hrank)

/-- R112: a GRADE or REMAN entry for a COMMITTED board is late. -/
theorem overrideCommitted_late {i : Fin 64} {x : OverrideAction} (hx : x = .reman ∨ ∃ g, x = .grade g) :
    s.overrideCommitted i lug station (some x) = s.overrideLate i lug station x := by
  rcases hx with rfl | ⟨g, rfl⟩ <;> rfl

/-! ### A late override (R78, R126) -/

theorem bankValue_congr {m m' : List Host.Cell} (h : ∀ n, AgreeOn 0x4000 n m m') (k : BankId) (g lc wc : Nat) :
    bankValue m' k g lc wc = bankValue m k g lc wc :=
  (h (bankBase k + 0x100 + 2 * entryNumber g lc wc)).field16 (by cases k <;> simp only [bankBase] <;> omega)
    (by cases k <;> simp only [bankBase] <;> omega)

theorem segmentFootage_congr {m m' : List Host.Cell} (h : ∀ n, AgreeOn 0x4000 n m m') (k : BankId) (g lc wc : Nat) :
    Machine.segmentFootage m' k g lc wc = Machine.segmentFootage m k g lc wc := by
  have hfield : ∀ a, bankBase k ≤ a → field8 m' a = field8 m a := fun a ha =>
    (h (a + 1)).field8 (Nat.le_trans (by cases k <;> decide) ha) (by omega)
  rw [Machine.segmentFootage, Machine.segmentFootage, bankThickness, bankThickness, bankWidth, bankWidth,
    hfield _ (by omega), hfield _ (by omega)]

theorem proffered_agreeOn {x : OverrideEntry} {a n : Nat} (ha : 0x2804 ≤ a) :
    AgreeOn a n s.shadow (s.proffered x).shadow :=
  announced_agreeOn (s := s.beginEvent) (OverrideEntry.bytes_length x) ha

/-- R78: the recomputation reads the bank as it stood before the entry was placed. -/
theorem revised_congr {m m' : List Host.Cell} (h : ∀ n, AgreeOn 0x4000 n m m') (p : CommittedPlan) (k : BankId)
    (x : OverrideAction) : p.revised m' k x = p.revised m k x := by
  have hrecomputed : ∀ g, p.recomputed m' k g .late = p.recomputed m k g .late := by
    intro g
    rw [CommittedPlan.recomputed, CommittedPlan.recomputed, segmentFootage_congr h, segmentValue, segmentValue,
      bankValue_congr h]
  unfold CommittedPlan.revised
  cases x <;> simp only [hrecomputed]

/-- The revision of a plan at the grade that a late override gives, 7 for REMAN. -/
theorem revised_eq {m : List Host.Cell} {k : BankId} {p : CommittedPlan} {x : OverrideAction} {g : Nat}
    (hg : (∃ n : Fin 7, x = .grade n ∧ g = n.val) ∨ (x = .reman ∧ g = 7)) :
    p.revised m k x = if p.product then p.recomputed m k g .late else p := by
  rcases hg with ⟨n, rfl, rfl⟩ | ⟨rfl, rfl⟩ <;> rfl

/-- The board after a late override (R112, R126). -/
theorem overrideLate_of_passes {i : Fin 64} {x : OverrideAction}
    (hpass : s.rankPasses station s.boards[i].override = true) :
    s.overrideLate i lug station x =
      (((s.attach i lug station (some x)).reviseLate i x).publish .lugTracker (.board i),
        ⟨.acceptedLate, some s.boards[i].state, s.boards[i].override.map Override.station⟩) := by
  unfold State.overrideLate
  dsimp only
  exact if_neg (by rw [hpass]; exact Bool.noConfusion)

theorem attach_boards {i : Fin 64} :
    (s.attach i lug station action).boards =
      s.boards.set i { s.boards[i] with override := action.map (Override.mk station) } := by
  cases action with
  | none => rfl
  | some x => exact supersede_only (s := s.setBoard i { s.boards[i] with override := some ⟨station, x⟩ }) _ _ .boards (by simp)

theorem attach_notices {i : Fin 64} (hnotices : t.notices = s.notices) (hroutes : t.routes = s.routes)
    (hboards : t.boards = s.boards) :
    (t.attach i lug station action).notices =
      (s.forEach (supersededNotices lug s.boards[i].override station action) State.raise).notices := by
  cases action with
  | none =>
    refine Eq.trans hnotices ?_
    cases s.boards[i].override <;> rfl
  | some x =>
    rw [← hboards]
    exact supersede_notices (by exact hnotices) (by exact hroutes)

/-- An attachment changes the board, and what a replacement raises. -/
theorem attach_only {i : Fin 64} :
    OnlyChanges [.boards, .notices, .stamps, .publications] s (s.attach i lug station action) :=
  (attach_frame i lug station action (by simp)).mpr (.refl _ s)

end Sys2Proof.Machine

namespace Sys2Proof.Proofs

open Sys2Proof.Machine

/-- Settles O25: the held table by what it holds for the lug, and by its room. -/
theorem overrideForFutureLug : Obligations.OverrideForFutureLug := by
  refine ⟨fun s station lug x htakes hrun hfar hordered => ?row, fun s station lug htakes hrun hfar hpass => ?cancel⟩
  case row =>
    have hstage : (s.proffered (overrideEntry station lug (some x))).decideOverride (overrideEntry station lug (some x)) =
        (s.proffered (overrideEntry station lug (some x))).holdOverride lug station (some x) :=
      (decideOverride_row (by rwa [proffered_running]) hordered).trans
        (overrideStage_future (by rwa [proffered_distance]))
    refine ⟨fun hnone hroom => ⟨_, exec_overrideRow s station lug (some x), ?_⟩,
      fun hnone hfull => ⟨_, exec_overrideRow s station lug (some x), ?_⟩,
      fun o hsome hrank => ⟨_, exec_overrideRow s station lug (some x), ?_⟩⟩
    · have hdo := hstage.trans (holdOverride_place (by rwa [proffered_heldFor]))
      rw [proffered_held, if_pos hroom, insertHeld_congr (proffered_lc s (overrideEntry station lug (some x)))] at hdo
      have hstats := overridden_stats htakes hdo (k := .overridesAccepted) rfl
      refine ⟨overridden_effect htakes hdo .held (by simp), hstats.trans ?_, overridden_answered htakes hdo,
        overridden_frame (T := [.held]) htakes hdo ((setHeld_only _ _).mono (by simp))⟩
      exact congrArg (fun xs : Vector Word 24 => xs.set 16 (satAdd xs[(16 : Fin 24)] 1))
        (proffered_stats s (overrideEntry station lug (some x)))
    · have hdo := hstage.trans (holdOverride_place (by rwa [proffered_heldFor]))
      rw [proffered_held, if_neg (Nat.not_lt.mpr hfull)] at hdo
      exact overridden_of_unchanged htakes hdo (k := .overridesRefused) rfl
    · have hdo := hstage.trans (holdOverride_replace (by rwa [proffered_heldFor]) (by rwa [proffered_rank, proffered_rank]))
      obtain ⟨hheld, hcounts, hnotices, hframe⟩ := replaced_spec
        (s := s.proffered (overrideEntry station lug (some x))) (station := station) (lug := lug) (old := some o) (x := x)
      rw [proffered_superseded] at hnotices
      rw [proffered_held] at hheld
      rw [proffered_stats] at hcounts
      have hstats := overridden_stats htakes hdo (k := .overridesAccepted) rfl
      rw [hcounts] at hstats
      exact ⟨Eq.trans (overridden_effect htakes hdo .held (by simp)) hheld,
        Eq.trans (overridden_effect htakes hdo .notices (by simp)) hnotices, hstats,
        overridden_answered htakes hdo, overridden_frame (T := [.held, .notices]) htakes hdo (hframe.mono (by simp))⟩
  case cancel =>
    have hdo : (s.proffered (overrideEntry station lug none)).decideOverride (overrideEntry station lug none) =
        ((s.proffered (overrideEntry station lug none)).dropHeld lug,
          ⟨.accepted, none, (s.heldFor lug).map Override.station⟩) := by
      rw [decideOverride_row (by rwa [proffered_running]) (by trivial), overrideStage_future (by rwa [proffered_distance]),
        holdOverride_cancel (by rwa [proffered_rankPasses, proffered_heldFor]), proffered_heldFor]
    have hstats := overridden_stats htakes hdo (k := .overridesAccepted) rfl
    have hheld : (s.overridden (overrideEntry station lug none)).held = _ := overridden_effect htakes hdo .held (by simp)
    have hanswer := overridden_answered htakes hdo
    rw [bytes_station] at hanswer
    refine ⟨_, exec_overrideRow s station lug none, hheld.trans ?_, hstats.trans ?_, hanswer,
      overridden_frame (T := [.held]) htakes hdo ((setHeld_only _ _).mono (by simp))⟩
    · exact congrArg (List.filter fun y => decide (y.lug ≠ lug))
        (proffered_held s (overrideEntry station lug none))
    · exact congrArg (fun xs : Vector Word 24 => xs.set 16 (satAdd xs[(16 : Fin 24)] 1))
        (proffered_stats s (overrideEntry station lug none))

/-- Settles O26: by the place whose holder outranks the station. -/
theorem overrideOutranked : Obligations.OverrideOutranked := by
  intro s station lug a o htakes hrun hordered hrank seen hcase
  have houtranked : ∀ st : Option BoardState, seen = (st.map BoardState.code).getD 0 →
      (s.proffered (overrideEntry station lug a)).overrideStage lug station a =
        (s.proffered (overrideEntry station lug a), ⟨.outranked, st, some o.station⟩) →
      ∃ t, exec (overrideRow station lug a) s = .next t ∧ t.stats = s.stats.set 18 (satAdd s.stats[18] 1) ∧
        Answered s t .override (overrideAnswerBytes 9 seen s.lc (BitVec.ofNat 8 o.station.val)) ∧
        OnlyChanges overrideTraces s t := by
    intro st hseen hstage
    have hdo := (decideOverride_row (s := s.proffered (overrideEntry station lug a)) (by rw [proffered_running, hrun])
      hordered).trans hstage
    obtain ⟨hstats, hanswer, hframe⟩ := overridden_of_unchanged htakes hdo (k := .overridesRefused) rfl
    subst hseen
    exact ⟨_, exec_overrideRow s station lug a, hstats, hanswer, hframe⟩
  have hrank' : (s.proffered (overrideEntry station lug a)).rank o.station <
      (s.proffered (overrideEntry station lug a)).rank station := by rwa [proffered_rank, proffered_rank]
  rcases hcase with ⟨hfar, hheld, hseen⟩ | ⟨e, hsort, hnear, he, hboard, hopen, ho, hseen⟩ |
    ⟨e, i, hsort, hnear, he, hboard, hstate, ho, hseen⟩ | ⟨e, i, hsort, hnear, he, hboard, hstate, hkind, ho, hseen⟩
  · refine houtranked none hseen ?_
    rw [overrideStage_future (by rwa [proffered_distance]),
      holdOverride_outranked (by rwa [proffered_heldFor]) hrank']
  · refine houtranked none hseen ?_
    rw [overrideStage_inLine (by rwa [proffered_distance, proffered_sortS]) (by rwa [proffered_distance])
      (by rwa [proffered_entry]), overrideInLine_empty hboard, if_neg (by rw [hopen]; exact Bool.noConfusion),
      overrideEntry_outranked ho hrank']
  · refine houtranked (some s.boards[i].state) hseen ?_
    rw [overrideStage_inLine (by rwa [proffered_distance, proffered_sortS]) (by rwa [proffered_distance])
      (by rwa [proffered_entry]), overrideInLine_board hboard (by rwa [proffered_boards]),
      overrideBoard_outranked (by rwa [proffered_boards]) hrank', proffered_boards]
  · refine houtranked (some .committed) hseen ?_
    rw [overrideStage_inLine (by rwa [proffered_distance, proffered_sortS]) (by rwa [proffered_distance])
      (by rwa [proffered_entry]), overrideInLine_committed hboard (by rwa [proffered_boards])]
    rcases hkind with rfl | ⟨g, rfl⟩
    · rw [overrideCommitted_late (.inl rfl), overrideLate_outranked (by rwa [proffered_boards]) hrank', proffered_boards,
        hstate]
    · rw [overrideCommitted_late (.inr ⟨g, rfl⟩), overrideLate_outranked (by rwa [proffered_boards]) hrank', proffered_boards,
        hstate]

end Sys2Proof.Proofs
end

section
/-! Overrides for lugs in the line (R105, R108, R110 to R112, R126): before commit, and late. -/

namespace Sys2Proof.Machine

variable {s t u : State} {station : Fin 8} {lug : Half} {action : Option OverrideAction} {i : Fin 64}

/-! ### A late override -/

/-- A board takes the place of its slot, whatever the slot was last given. -/
theorem set_set_board {xs ys : Vector Board 64} {y z : Board} (h : xs = ys.set i y) : xs.set i z = ys.set i z := by
  rw [h, Vector.set_set]

/-- R112, R126: the boards after a late override. -/
theorem late_boards {x : OverrideAction} : ((s.attach i lug station (some x)).reviseLate i x).boards =
    s.boards.set i
      { s.boards[i] with
        override := some ⟨station, x⟩
        committed := s.boards[i].committed.map fun p => p.revised s.shadow s.boards[i].bank x } := by
  have hboards : (s.attach i lug station (some x)).boards =
      s.boards.set i { s.boards[i] with override := some ⟨station, x⟩ } := attach_boards
  have hshadow : (s.attach i lug station (some x)).shadow = s.shadow := attach_only .shadow (by simp)
  have hself : (s.attach i lug station (some x)).boards[i] = { s.boards[i] with override := some ⟨station, x⟩ } := by
    rw [hboards, get_set_self]
  rw [State.reviseLate, hself, hshadow]
  exact set_set_board hboards

/-- A late override changes its board and what a replacement raises. -/
theorem late_only {x : OverrideAction} : OnlyChanges [.boards, .notices, .stamps, .publications] s
    (((s.attach i lug station (some x)).reviseLate i x).publish .lugTracker (.board i)) := by
  simp

theorem late_notices {x : OverrideAction} :
    (((s.attach i lug station (some x)).reviseLate i x).publish .lugTracker (.board i)).notices =
      (s.forEach (supersededNotices lug s.boards[i].override station (some x)) State.raise).notices :=
  (publish_notices _ _ _).trans (attach_notices (t := s) rfl rfl rfl)

/-! ### An entry with no board (R108) -/

/-- R108: past the rank test an entry takes its place on the lug's entry. -/
theorem overrideEntry_of_passes {e : LugEntry} (hpass : s.rankPasses station e.override = true) :
    ∃ u : State, s.overrideEntry e station action =
        (u, ⟨if action = none then .accepted else .held, none, e.override.map Override.station⟩) ∧
      u.lugLine = s.lugLine.set (lugIndex e.lug) (some { e with override := action.map (Override.mk station) }) ∧
      u.stats = s.stats ∧
      u.notices = (s.forEach (supersededNotices e.lug e.override station action) State.raise).notices ∧
      OnlyChanges [.lugLine, .notices, .stamps, .publications] s u := by
  unfold State.overrideEntry
  rw [if_neg (by rw [hpass]; exact Bool.noConfusion)]
  cases action with
  | none =>
    refine ⟨_, rfl, rfl, rfl, ?_, (setEntry_frame _ _ (by simp)).mpr (.refl _ s)⟩
    cases e.override <;> rfl
  | some x =>
    have hraised := supersede_only (s := s.setEntry e.lug (some { e with override := some ⟨station, x⟩ })) (lug := e.lug)
      e.override ⟨station, x⟩
    exact ⟨_, rfl, hraised .lugLine (by simp), hraised .stats (by simp), supersede_notices (by rfl) (by rfl),
      OnlyChanges.trans ((setEntry_frame _ _ (by simp)).mpr (.refl _ s)) (hraised.mono (by simp))⟩

/-! ### A board before commit (R110, R111, Table 5-3) -/

/-- R111: a CANCEL with no override to remove changes nothing. -/
theorem overrideBoard_idle (hpass : s.rankPasses station s.boards[i].override = true)
    (hnone : action = none ∧ s.boards[i].override = none) :
    s.overrideBoard i lug station action = (s, ⟨.accepted, some s.boards[i].state, none⟩) := by
  unfold State.overrideBoard
  dsimp only
  rw [if_neg (by rw [hpass]; exact Bool.noConfusion)]
  exact if_pos hnone

theorem overrideBoard_changes (hpass : s.rankPasses station s.boards[i].override = true)
    (hchanges : action ≠ none ∨ s.boards[i].override ≠ none) :
    s.overrideBoard i lug station action =
      (((s.attach i lug station action).resolveCause i).publish .lugTracker (.board i),
        ⟨.accepted, some s.boards[i].state, s.boards[i].override.map Override.station⟩) := by
  unfold State.overrideBoard
  dsimp only
  rw [if_neg (by rw [hpass]; exact Bool.noConfusion)]
  exact if_neg (by tauto)

/-- The board with its override attached or removed. -/
def Board.attached (b : Board) (station : Fin 8) (action : Option OverrideAction) : Board :=
  { b with override := action.map (Override.mk station) }

/-- The board whose plan an attachment has made stale, with the RESOLVE request (R85). -/
def Board.restarted (b : Board) (station : Fin 8) (action : Option OverrideAction) : Board :=
  { b.attached station action with stale := b.plan, plan := none, request := some .resolve }

theorem attach_self : (s.attach i lug station action).boards[i] = s.boards[i].attached station action := by
  rw [attach_boards, get_set_self]
  rfl

/-- R88: what the attachment makes of a SOLVING board. -/
theorem resolveCause_solving (hstate : s.boards[i].state = .solving) :
    let u := (s.attach i lug station action).resolveCause i
    u.boards = s.boards.set i { s.boards[i].attached station action with state := .queued } ∧
      u.solver = { s.solver with inFlight := none } ∧ u.stats = s.stats.set 11 (satAdd s.stats[(11 : Fin 24)] 1) := by
  have hsolver : (s.attach i lug station action).solver = s.solver := attach_only .solver (by simp)
  have hstats : (s.attach i lug station action).stats = s.stats := attach_only .stats (by simp)
  have hcause : (s.attach i lug station action).resolveCause i = (s.attach i lug station action).restartSolve i := by
    rw [State.resolveCause, attach_self, Board.attached, hstate]
  intro u
  refine ⟨?_, ?_, ?_⟩ <;> simp only [u, hcause]
  · rw [State.restartSolve, attach_self]
    exact set_set_board attach_boards
  · exact congrArg (fun x : Solver => { x with inFlight := none }) hsolver
  · exact congrArg (fun xs : Vector Word 24 => xs.set 11 (satAdd xs[(11 : Fin 24)] 1)) hstats

/-- Table 5-3: the attachment to a board with no plan and no solve in flight has no other effect. -/
theorem resolveCause_waiting (hstate : s.boards[i].state ∈ [BoardState.measuring, .awaiting, .queued]) :
    (s.attach i lug station action).resolveCause i = s.attach i lug station action := by
  rw [State.resolveCause, attach_self, Board.attached]
  simp only [List.mem_cons, List.not_mem_nil, or_false] at hstate
  rcases hstate with hstate | hstate | hstate <;> rw [hstate]

/-- R82, R83, R85: a RESOLVE request takes a shared credit, else the reserved RESOLVE credit, else none and waits. -/
theorem raiseRequest_resolve (s : State) (i : Fin 64) :
    (s.solver.shared.length < 6 →
      s.raiseRequest .resolve i =
        (s.setSolver { s.solver with shared := s.solver.shared ++ [i] }).setBoard i
          { s.boards[i] with request := some .resolve, state := .queued }) ∧
    (6 ≤ s.solver.shared.length → s.solver.reservedResolve = none →
      s.raiseRequest .resolve i =
        ((s.setSolver { s.solver with reservedResolve := some i }).setBoard i
          { s.boards[i] with request := some .resolve, state := .queued }).bump .reservedUses) ∧
    (6 ≤ s.solver.shared.length → s.solver.reservedResolve ≠ none →
      s.raiseRequest .resolve i =
        ((s.setSolver { s.solver with waiting := s.insertByAge i s.solver.waiting }).setBoard i
          { s.boards[i] with request := some .resolve, state := .awaiting }).bump .creditWaits) := by
  obtain ⟨hshared, hfull⟩ := take_spec s.solver i
  refine ⟨fun hroom => ?_, fun hlen hfree => ?_, fun hlen hheld => ?_⟩
  · rw [State.raiseRequest, hshared hroom]
    rfl
  · obtain ⟨-, -, htakes, -⟩ := hfull hlen
    rw [State.raiseRequest, htakes hfree]
    rfl
  · obtain ⟨-, -, -, hnone⟩ := hfull hlen
    rw [State.raiseRequest, hnone hheld]

/-- The board of a slot re-solved: its plan stale, and the RESOLVE request raised (Table 5-3). -/
def State.staled (s : State) (i : Fin 64) : State :=
  s.setBoard i { s.boards[i] with stale := s.boards[i].plan, plan := none }

theorem resolveCause_solved_eq (hstate : s.boards[i].state = .solved) :
    s.resolveCause i = (s.staled i).raiseRequest .resolve i := by
  rw [State.resolveCause, hstate]
  rfl

/-- The lugs of the boards stand where a slot takes a board of the same lug. -/
theorem distance_of_set {y : Board} (hboards : t.boards = s.boards.set i y) (hlug : y.lug = s.boards[i].lug)
    (hlc : t.lc = s.lc) (j : Fin 64) : t.distance t.boards[j].lug = s.distance s.boards[j].lug := by
  rw [State.distance, State.distance, hlc, hboards]
  by_cases hj : i = j
  · subst hj
    rw [get_set_self, hlug]
  · rw [get_set_ne hj]

/-- R82, R83, R85: what the attachment makes of a SOLVED board. -/
theorem resolveCause_solved (hstate : s.boards[i].state = .solved) :
    let u := (s.attach i lug station action).resolveCause i
    let z := s.boards[i].restarted station action
    (s.solver.shared.length < 6 →
      u.boards = s.boards.set i { z with state := .queued } ∧
      u.solver = { s.solver with shared := s.solver.shared ++ [i] } ∧ u.stats = s.stats) ∧
    (6 ≤ s.solver.shared.length → s.solver.reservedResolve = none →
      u.boards = s.boards.set i { z with state := .queued } ∧
      u.solver = { s.solver with reservedResolve := some i } ∧
      u.stats = s.stats.set 14 (satAdd s.stats[(14 : Fin 24)] 1)) ∧
    (6 ≤ s.solver.shared.length → s.solver.reservedResolve ≠ none →
      u.boards = s.boards.set i { z with state := .awaiting } ∧
      u.stats = s.stats.set 13 (satAdd s.stats[(13 : Fin 24)] 1) ∧
      ∃ older younger, s.solver.waiting = older ++ younger ∧
        u.solver = { s.solver with waiting := older ++ i :: younger } ∧
        (∀ j ∈ older, s.distance s.boards[i].lug ≤ s.distance s.boards[j].lug) ∧
        ∀ j ∈ younger.head?, s.distance s.boards[j].lug < s.distance s.boards[i].lug) := by
  have hcause : (s.attach i lug station action).resolveCause i =
      ((s.attach i lug station action).staled i).raiseRequest .resolve i :=
    resolveCause_solved_eq (by rw [attach_self]; exact hstate)
  have hboards : ((s.attach i lug station action).staled i).boards = s.boards.set i
      { s.boards[i].attached station action with stale := s.boards[i].plan, plan := none } := by
    rw [State.staled, attach_self]
    exact set_set_board attach_boards
  have hself : ((s.attach i lug station action).staled i).boards[i] =
      { s.boards[i].attached station action with stale := s.boards[i].plan, plan := none } := by
    rw [hboards, get_set_self]
  have hsolver : ((s.attach i lug station action).staled i).solver = s.solver := attach_only .solver (by simp)
  have hstats : ((s.attach i lug station action).staled i).stats = s.stats := attach_only .stats (by simp)
  have hlc : ((s.attach i lug station action).staled i).lc = s.lc := attach_only .lc (by simp)
  obtain ⟨hshared, hreserved, hwaits⟩ := raiseRequest_resolve ((s.attach i lug station action).staled i) i
  rw [← hcause, hsolver, hself] at hshared hreserved hwaits
  refine ⟨fun hroom => ?_, fun hfull hfree => ?_, fun hfull hheld => ?_⟩
  · rw [hshared hroom]
    exact ⟨set_set_board hboards, rfl, hstats⟩
  · rw [hreserved hfull hfree]
    exact ⟨set_set_board hboards, rfl,
      congrArg (fun xs : Vector Word 24 => xs.set 14 (satAdd xs[(14 : Fin 24)] 1)) hstats⟩
  · rw [hwaits hfull hheld]
    obtain ⟨older, younger, hsplit, hinsert, holder, hyounger⟩ :=
      insertByAge_split ((s.attach i lug station action).staled i) i s.solver.waiting
    simp only [distance_of_set hboards (by rfl) hlc] at holder hyounger
    refine ⟨set_set_board hboards,
      congrArg (fun xs : Vector Word 24 => xs.set 13 (satAdd xs[(13 : Fin 24)] 1)) hstats,
      older, younger, hsplit, ?_, holder, hyounger⟩
    rw [← hinsert]
    rfl

/-- The record of a board is not among those that an attachment or a re-solve publishes. -/
theorem resolved_stamp : ((s.attach i lug station action).resolveCause i).stamp (.board i) = s.stamp (.board i) := by
  have hcause : OnlyChanges [.boards, .solver, .stats] (s.attach i lug station action)
      ((s.attach i lug station action).resolveCause i) := (resolveCause_frame i (by simp)).mpr (.refl _ _)
  rw [hcause.stamp (by simp)]
  cases action with
  | none => rfl
  | some x =>
    simp only [State.attach, State.supersede]
    split
    · rfl
    · exact raise_stamp _ _ _ nofun nofun

/-- The two counters of an override that restarts, counted in either order. -/
theorem stats_set_comm {xs : Vector Word 24} {j k : Fin 24} (h : j ≠ k) (v : Word) :
    (xs.set j v).set k (satAdd (xs.set j v)[k] 1) = (xs.set k (satAdd xs[k] 1)).set j v := by
  rw [get_set_ne h]
  exact Vector.set_comm _ _ fun heq => h (Fin.ext heq)

end Sys2Proof.Machine

namespace Sys2Proof.Proofs

open Sys2Proof.Machine

/-- Settles O28: the late decision, with the plan recomputed from the bank as it stood before the entry was placed. -/
theorem lateOverrideRevises : Obligations.LateOverrideRevises := by
  intro s station lug x e i p g htakes hrun hsort hnear he hboard hstate hplan hpass hgrade
  have hkind : x = .reman ∨ ∃ k, x = .grade k := by
    rcases hgrade with ⟨k, rfl, -⟩ | ⟨rfl, -⟩
    · exact .inr ⟨k, rfl⟩
    · exact .inl rfl
  have hordered : trimOrdered (some x) := by
    rcases hkind with rfl | ⟨k, rfl⟩ <;> exact trivial
  have hdo : (s.proffered (overrideEntry station lug (some x))).decideOverride (overrideEntry station lug (some x)) =
      ((((s.proffered (overrideEntry station lug (some x))).attach i lug station (some x)).reviseLate i x).publish
          .lugTracker (.board i),
        ⟨.acceptedLate, some .committed, s.boards[i].override.map Override.station⟩) := by
    rw [decideOverride_row (by rwa [proffered_running]) hordered,
      overrideStage_inLine (by rwa [proffered_distance, proffered_sortS]) (by rwa [proffered_distance])
        (by rwa [proffered_entry]), overrideInLine_committed hboard (by rwa [proffered_boards]), entry_lug he,
      overrideCommitted_late hkind, overrideLate_of_passes (by rwa [proffered_rankPasses, proffered_boards]),
      proffered_boards, hstate]
  have heffect := overridden_effect htakes hdo
  have hboards : (s.overridden (overrideEntry station lug (some x))).boards =
      (s.proffered (overrideEntry station lug (some x))).boards.set i _ :=
    Eq.trans (heffect .boards (by simp)) ((publish_boards _ _ _).trans late_boards)
  have hnotices : (s.overridden (overrideEntry station lug (some x))).notices = _ :=
    Eq.trans (heffect .notices (by simp)) late_notices
  have hcounts := late_only (s := s.proffered (overrideEntry station lug (some x))) (i := i) (lug := lug)
    (station := station) (x := x) .stats (by simp)
  have hstats := overridden_stats htakes hdo (k := .overridesLate) rfl
  have hanswer := overridden_answered htakes hdo
  have hframe := overridden_frame (T := [.boards, .notices]) htakes hdo (late_only.mono (by simp))
  have hrevised : ∀ q : CommittedPlan, q.revised (s.proffered (overrideEntry station lug (some x))).shadow s.boards[i].bank x =
      if q.product then q.recomputed s.shadow s.boards[i].bank g .late else q := fun q =>
    (revised_congr (fun n => proffered_agreeOn (by decide)) q _ x).trans (revised_eq hgrade)
  rw [proffered_boards, hplan, Option.map_some, hrevised] at hboards
  rw [proffered_superseded, proffered_boards] at hnotices
  rw [bytes_station] at hanswer
  simp only [Same] at hcounts
  rw [hcounts, proffered_stats] at hstats
  exact ⟨_, exec_overrideRow s station lug (some x), hboards, hframe .trimRing (by simp [overrideTraces]), hstats, hnotices,
    hanswer, hframe⟩

end Sys2Proof.Proofs
end

section
/-! An override for a lug in the line before commit (R105, R108, R110, R111): the statement from its parts. -/

namespace Sys2Proof.Machine

variable {s : State} {station : Fin 8} {lug : Half} {action : Option OverrideAction} {i : Fin 64}

/-- The notices of an attachment, where the decision is taken. -/
theorem resolved_notices : (((s.attach i lug station action).resolveCause i).publish .lugTracker (.board i)).notices =
    (s.forEach (supersededNotices lug s.boards[i].override station action) State.raise).notices := by
  have hcause : OnlyChanges [.boards, .solver, .stats] (s.attach i lug station action)
      ((s.attach i lug station action).resolveCause i) := (resolveCause_frame i (by simp)).mpr (.refl _ _)
  exact ((publish_notices _ _ _).trans (hcause .notices (by simp))).trans (attach_notices (t := s) rfl rfl rfl)

/-- R111: an attachment publishes its board's record once. -/
theorem resolved_published (hrest : s.path.initialRest = []) :
    (((s.attach i lug station action).resolveCause i).publish .lugTracker (.board i)).stamp (.board i) =
      s.stamp (.board i) + 1 := by
  have honly : OnlyChanges [.boards, .solver, .stats, .notices, .stamps, .publications] s
      ((s.attach i lug station action).resolveCause i) := by simp
  have hkept : ((s.attach i lug station action).resolveCause i).path.initialRest = [] :=
    Eq.trans (honly .initialRest (by simp)) hrest
  rw [stamp_publish, if_pos ⟨rfl, by rw [hkept]; exact List.not_mem_nil⟩, resolved_stamp]

/-- CANCEL raises no notice (R105). -/
theorem supersededNotices_none (lug : Half) (old : Option Override) (station : Fin 8) :
    supersededNotices lug old station none = [] := by
  cases old <;> rfl

/-- A board with no override, given none, is as it was. -/
theorem attached_none (b : Board) (h : action = none ∧ b.override = none) : b.attached station action = b := by
  obtain ⟨rfl, hnone⟩ := h
  rw [Board.attached, Option.map_none, ← hnone]

/-! ### What the taking of an entry that attaches comes to -/

section Taken

variable {x : OverrideEntry} (htakes : s.Takes .override)
  (hdo : (s.proffered x).decideOverride x =
    ((((s.proffered x).attach i lug station action).resolveCause i).publish .lugTracker (.board i),
      ⟨.accepted, some s.boards[i].state, s.boards[i].override.map Override.station⟩))

include htakes hdo

theorem taken_boards :
    (s.overridden x).boards = (((s.proffered x).attach i lug station action).resolveCause i).boards :=
  Eq.trans (overridden_effect htakes hdo .boards (by simp)) (publish_boards _ _ _)

theorem taken_solver :
    (s.overridden x).solver = (((s.proffered x).attach i lug station action).resolveCause i).solver :=
  Eq.trans (overridden_effect htakes hdo .solver (by simp)) (publish_solver _ _ _)

theorem taken_stats {xs : Vector Word 24}
    (h : (((s.proffered x).attach i lug station action).resolveCause i).stats = xs) :
    (s.overridden x).stats = xs.set 16 (satAdd xs[(16 : Fin 24)] 1) := by
  subst h
  have hstats := overridden_stats htakes hdo (k := .overridesAccepted) rfl
  rwa [publish_stats] at hstats

/-- R105, R111: the notices, the answer and the record's one publication. -/
theorem taken_common :
    (s.overridden x).notices =
      (s.forEach (supersededNotices lug s.boards[i].override station action) State.raise).notices ∧
    Answered s (s.overridden x) .override
      (overrideAnswerBytes 2 s.boards[i].state.code s.lc (stationByte s.boards[i].override)) ∧
    (s.overridden x).stamp (.board i) = s.stamp (.board i) + 1 ∧
    OnlyChanges (.boards :: .solver :: .notices :: overrideTraces) s (s.overridden x) := by
  have hnotices : (s.overridden x).notices = _ :=
    Eq.trans (overridden_effect htakes hdo .notices (by simp)) resolved_notices
  have hanswer := overridden_answered htakes hdo
  have hstamp := (overridden_stamp htakes hdo (r := .board i) nofun).trans
    (resolved_published ((proffered_initialRest s x).trans htakes.published))
  rw [proffered_superseded, proffered_boards] at hnotices
  rw [bytes_station] at hanswer
  rw [proffered_stamp] at hstamp
  exact ⟨hnotices, hanswer, hstamp, overridden_frame (T := [.boards, .solver, .notices]) htakes hdo (by simp)⟩

theorem taken_waiting (hstate : s.boards[i].state ∈ [BoardState.measuring, .awaiting, .queued]) :
    (s.overridden x).boards = s.boards.set i (s.boards[i].attached station action) ∧
    (s.overridden x).stats = s.stats.set 16 (satAdd s.stats[(16 : Fin 24)] 1) ∧
    OnlyChanges (.boards :: .notices :: overrideTraces) s (s.overridden x) := by
  have hquiet := resolveCause_waiting (s := s.proffered x) (i := i) (lug := lug) (station := station) (action := action)
    (by rwa [proffered_boards])
  have hcounts : ((s.proffered x).attach i lug station action).stats = (s.proffered x).stats := attach_only .stats (by simp)
  refine ⟨?_, taken_stats htakes hdo ?_, overridden_frame (T := [.boards, .notices]) htakes hdo ?_⟩
  · rw [taken_boards htakes hdo, hquiet, attach_boards, proffered_boards]
    rfl
  · rw [hquiet, hcounts, proffered_stats]
  · rw [hquiet]
    simp

/-- R88: the solve of the board is abandoned and restarted. -/
theorem taken_solving (hstate : s.boards[i].state = .solving) :
    (s.overridden x).boards = s.boards.set i { s.boards[i].attached station action with state := .queued } ∧
    (s.overridden x).solver = { s.solver with inFlight := none } ∧
    (s.overridden x).stats =
      (s.stats.set 16 (satAdd s.stats[(16 : Fin 24)] 1)).set 11 (satAdd s.stats[(11 : Fin 24)] 1) := by
  obtain ⟨hboards, hsolver, hstats⟩ := resolveCause_solving (s := s.proffered x) (i := i) (lug := lug) (station := station)
    (action := action) (by rwa [proffered_boards])
  rw [proffered_boards] at hboards
  rw [proffered_solver] at hsolver
  rw [proffered_stats] at hstats
  exact ⟨(taken_boards htakes hdo).trans hboards, (taken_solver htakes hdo).trans hsolver,
    (taken_stats htakes hdo hstats).trans (stats_set_comm (j := 11) (k := 16) (by decide) _)⟩

/-- R82, R83, R85: the board is re-solved. -/
theorem taken_solved (hstate : s.boards[i].state = .solved) :
    let t := s.overridden x
    let z := s.boards[i].restarted station action
    let counted := s.stats.set 16 (satAdd s.stats[(16 : Fin 24)] 1)
    (s.solver.shared.length < 6 →
      t.boards = s.boards.set i { z with state := .queued } ∧
      t.solver = { s.solver with shared := s.solver.shared ++ [i] } ∧ t.stats = counted) ∧
    (6 ≤ s.solver.shared.length → s.solver.reservedResolve = none →
      t.boards = s.boards.set i { z with state := .queued } ∧
      t.solver = { s.solver with reservedResolve := some i } ∧
      t.stats = counted.set 14 (satAdd s.stats[(14 : Fin 24)] 1)) ∧
    (6 ≤ s.solver.shared.length → s.solver.reservedResolve ≠ none →
      t.boards = s.boards.set i { z with state := .awaiting } ∧
      t.stats = counted.set 13 (satAdd s.stats[(13 : Fin 24)] 1) ∧
      ∃ older younger, s.solver.waiting = older ++ younger ∧
        t.solver = { s.solver with waiting := older ++ i :: younger } ∧
        (∀ j ∈ older, s.distance s.boards[i].lug ≤ s.distance s.boards[j].lug) ∧
        ∀ j ∈ younger.head?, s.distance s.boards[j].lug < s.distance s.boards[i].lug) := by
  obtain ⟨hshared, hreserved, hwaits⟩ := resolveCause_solved (s := s.proffered x) (i := i) (lug := lug) (station := station)
    (action := action) (by rwa [proffered_boards])
  rw [proffered_solver, proffered_boards, proffered_stats] at hshared hreserved hwaits
  refine ⟨fun hroom => ?_, fun hfull hfree => ?_, fun hfull hheld => ?_⟩
  · obtain ⟨hboards, hsolver, hstats⟩ := hshared hroom
    exact ⟨(taken_boards htakes hdo).trans hboards, (taken_solver htakes hdo).trans hsolver, taken_stats htakes hdo hstats⟩
  · obtain ⟨hboards, hsolver, hstats⟩ := hreserved hfull hfree
    exact ⟨(taken_boards htakes hdo).trans hboards, (taken_solver htakes hdo).trans hsolver,
      (taken_stats htakes hdo hstats).trans (stats_set_comm (j := 14) (k := 16) (by decide) _)⟩
  · obtain ⟨hboards, hstats, older, younger, hsplit, hsolver, holder, hyounger⟩ := hwaits hfull hheld
    simp only [proffered_distance] at holder hyounger
    exact ⟨(taken_boards htakes hdo).trans hboards,
      (taken_stats htakes hdo hstats).trans (stats_set_comm (j := 13) (k := 16) (by decide) _),
      older, younger, hsplit, (taken_solver htakes hdo).trans hsolver, holder, hyounger⟩

end Taken

end Sys2Proof.Machine

namespace Sys2Proof.Proofs

open Sys2Proof.Machine

/-- Settles O27: a lug with no board by its entry, and a board by its state. -/
theorem overrideBeforeCommit : Obligations.OverrideBeforeCommit := by
  intro s station lug a e htakes hrun hordered hsort hnear he
  obtain rfl : e.lug = lug := entry_lug he
  have hstage : (s.proffered (overrideEntry station e.lug a)).decideOverride (overrideEntry station e.lug a) =
      (s.proffered (overrideEntry station e.lug a)).overrideInLine e station a :=
    (decideOverride_row (by rwa [proffered_running]) hordered).trans
      (overrideStage_inLine (by rwa [proffered_distance, proffered_sortS]) (by rwa [proffered_distance])
        (by rwa [proffered_entry]))
  refine ⟨fun hboard hopen hpass => ⟨_, exec_overrideRow s station e.lug a, ?empty⟩, ?board⟩
  case empty =>
    obtain ⟨u, hentry, hline, hcounts, hnotices, hframe⟩ := overrideEntry_of_passes
      (s := s.proffered (overrideEntry station e.lug a)) (station := station) (action := a) (e := e)
      (by rwa [proffered_rankPasses])
    have hdo := (hstage.trans (overrideInLine_empty hboard)).trans
      ((if_neg (by rw [hopen]; exact Bool.noConfusion)).trans hentry)
    have hstats := overridden_stats htakes hdo (k := .overridesAccepted) (by split <;> rfl)
    have hanswer := overridden_answered htakes hdo
    rw [hcounts, proffered_stats] at hstats
    rw [proffered_superseded] at hnotices
    rw [proffered_lugLine] at hline
    rw [bytes_station] at hanswer
    refine ⟨Eq.trans (overridden_effect htakes hdo .lugLine (by simp)) hline,
      Eq.trans (overridden_effect htakes hdo .notices (by simp)) hnotices, hstats, ?_,
      overridden_frame (T := [.lugLine, .notices]) htakes hdo (hframe.mono (by simp))⟩
    by_cases hcancel : a = none
    · rw [if_pos hcancel] at hanswer ⊢
      exact hanswer
    · rw [if_neg hcancel] at hanswer ⊢
      exact hanswer
  case board =>
    intro i hboard hstate hpass b y z changes counted
    have hcommitted : s.boards[i].state ≠ .committed := by
      intro heq
      rw [heq] at hstate
      exact absurd hstate (by decide)
    have hpass' : (s.proffered (overrideEntry station e.lug a)).rankPasses station
        (s.proffered (overrideEntry station e.lug a)).boards[i].override = true := by
      rwa [proffered_rankPasses, proffered_boards]
    have hstage := hstage.trans (overrideInLine_board hboard (by rwa [proffered_boards]))
    refine ⟨_, exec_overrideRow s station e.lug a, ?_⟩
    by_cases hchanges : changes
    case neg =>
      have hnone : a = none ∧ s.boards[i].override = none := by
        simpa only [changes, not_or, ne_eq, not_not] using hchanges
      have hdo := hstage.trans (overrideBoard_idle hpass' (by rwa [proffered_boards]))
      obtain ⟨hstats, hanswer, hframe⟩ := overridden_of_unchanged htakes hdo (k := .overridesAccepted) rfl
      have hkept : y = s.boards[i] := attached_none _ hnone
      have hstamp := overridden_stamp htakes hdo (r := .board i) nofun
      have hboards : (s.overridden (overrideEntry station e.lug a)).boards = s.boards := hframe .boards (by simp [overrideTraces])
      have hnotices : (s.overridden (overrideEntry station e.lug a)).notices = s.notices :=
        hframe .notices (by simp [overrideTraces])
      rw [proffered_boards] at hanswer
      refine ⟨?_, ?_, fun _ => ⟨?_, hstats, hframe.mono fun f hf => by simp [hf]⟩, fun _ hyes => absurd hyes hchanges,
        fun _ hyes => absurd hyes hchanges, fun hyes => absurd hyes hchanges, fun _ => hstamp.trans (proffered_stamp s _ _),
        hframe.mono fun f hf => by simp [hf]⟩
      · rw [hnotices, hnone.1, supersededNotices_none]
        rfl
      · simp only [b]
        rw [hnone.2]
        exact hanswer
      · rw [hboards, hkept]
        exact (Vector.set_getElem_self i.isLt).symm
    case pos =>
      have hdo := hstage.trans (overrideBoard_changes hpass' (by rwa [proffered_boards]))
      rw [proffered_boards] at hdo
      obtain ⟨hnotices, hanswer, hstamp, hframe⟩ := taken_common htakes hdo
      refine ⟨hnotices, hanswer, fun hquiet => ?_, fun hsolving _ => taken_solving htakes hdo hsolving,
        fun hsolved _ => taken_solved htakes hdo hsolved, fun _ => hstamp, fun hno => absurd hchanges hno, hframe⟩
      obtain ⟨hsolving, hsolved⟩ := hquiet.resolve_right (not_not_intro hchanges)
      refine taken_waiting htakes hdo ?_
      simp only [List.mem_cons, List.not_mem_nil, or_false] at hstate ⊢
      tauto

end Sys2Proof.Proofs
end

section
/-! The consuming reads (R27, R28, R62, R125, R154, R158, R181, R182): what a returned header does to its record, and the
answer to a read whose turn it is. -/

namespace Sys2Proof.Machine

variable {s t : State}

/-! ### Publications of one record -/

/-- A publication republishes its record alone. -/
theorem publish_republishes {r : Record} {owner : FunctionalBlock} (hstamp : ∀ q, t.stamp q = s.stamp q)
    (hrest : r.initUnit ∉ t.path.initialRest) : Republishes [r] s (t.publish owner r) := by
  intro q
  rw [stamp_publish, hstamp]
  by_cases hq : q = r
  · subst hq
    rw [if_pos ⟨rfl, hrest⟩, if_pos (List.mem_singleton.mpr rfl)]
  · rw [if_neg fun h => hq h.1, if_neg fun h => hq (List.mem_singleton.mp h)]

theorem publish_republishes_of_published {r : Record} {owner : FunctionalBlock} (hstamp : ∀ q, t.stamp q = s.stamp q)
    (hrest : t.path.initialRest = []) : Republishes [r] s (t.publish owner r) :=
  publish_republishes hstamp (by rw [hrest]; exact List.not_mem_nil)

/-! ### Head status records (R27, R28) -/

/-- The channel with the flags that a returned flag byte showed cleared. -/
def Head.cleared (x : Head) (shown : Byte) : Head :=
  { x with
    frame := x.frame && !shown.getLsbD 0
    chk := x.chk && !shown.getLsbD 1
    gap := x.gap && !shown.getLsbD 2 }

theorem clearShown_eq (x : Head) (shown : Byte) : x.clearShown shown =
    if x.blocked = true ∧ (x.cleared shown).blocked = false then { x.cleared shown with expected := none }
    else x.cleared shown := by
  unfold Head.clearShown
  dsimp only
  by_cases h : x.blocked = true ∧ (x.cleared shown).blocked = false
  · rw [if_pos h, if_pos (by rw [h.1]; simpa [Head.cleared] using h.2)]
    rfl
  · rw [if_neg h, if_neg (by simpa [Head.cleared] using h)]
    rfl

theorem clearShown_flagByte (x : Head) (shown : Byte) : (x.clearShown shown).flagByte = (x.cleared shown).flagByte := by
  rw [clearShown_eq]
  split <;> rfl

/-- The flag byte shows the flags. -/
theorem flagByte_eq_iff {x y : Head} : x.flagByte = y.flagByte ↔ x.frame = y.frame ∧ x.chk = y.chk ∧ x.gap = y.gap := by
  have hbits : ∀ a b c p q r : Bool,
      ((if a then (1 : Byte) else 0) ||| (if b then 2 else 0) ||| (if c then 4 else 0)) =
        ((if p then 1 else 0) ||| (if q then 2 else 0) ||| (if r then 4 else 0)) ↔ a = p ∧ b = q ∧ c = r := by
    decide
  exact hbits _ _ _ _ _ _

theorem clearShown_flagByte_eq_iff (x : Head) (shown : Byte) :
    (x.clearShown shown).flagByte = x.flagByte ↔ x.cleared shown = x := by
  rw [clearShown_flagByte, flagByte_eq_iff]
  constructor
  · rintro ⟨hframe, hchk, hgap⟩
    obtain ⟨⟩ := x
    simp only [Head.cleared] at hframe hchk hgap ⊢
    rw [hframe, hchk, hgap]
  · intro h
    rw [h]
    exact ⟨rfl, rfl, rfl⟩

theorem not_mem_initialRest_of_answered {r : Record} (hrecords : r ∈ r.initUnit.records)
    (h : s.beforeInitialWrite r = false) : r.initUnit ∉ s.path.initialRest := by
  intro hmem
  have hnot : r ∉ s.initialRecords := of_decide_eq_false h
  exact hnot (List.mem_append_right _ (List.mem_flatMap.mpr ⟨_, hmem, hrecords⟩))

theorem consumeHead_spec (s : State) (h : Fin 9) (header : List Byte) :
    let y := s.heads[h].cleared (headerByte header 2)
    let t := s.handHeader (.head h) header
    (s.beforeInitialWrite (.head h) = true ∨ y = s.heads[h] → t = s) ∧
    (s.beforeInitialWrite (.head h) = false → y ≠ s.heads[h] →
      t.heads = s.heads.set h
        (if s.heads[h].blocked = true ∧ y.blocked = false then { y with expected := none } else y) ∧
      Republishes [.head h] s t ∧ OnlyChanges [.heads, .stamps, .publications] s t) := by
  have hsame := clearShown_flagByte_eq_iff s.heads[h] (headerByte header 2)
  refine ⟨fun hcase => ?_, fun hanswered hdiffer => ?_⟩
  · change s.consumeHead h header = s
    unfold State.consumeHead
    dsimp only
    rcases hcase with hbefore | hkept
    · rw [if_pos hbefore]
    · rw [if_pos (hsame.mpr hkept), ite_self]
  · have heq : s.handHeader (.head h) header =
        (s.setHead h (s.heads[h].clearShown (headerByte header 2))).publish .ingest (.head h) := by
      change s.consumeHead h header = _
      unfold State.consumeHead
      dsimp only
      rw [if_neg (by rw [hanswered]; exact Bool.noConfusion), if_neg (hsame.not.mpr hdiffer)]
    rw [heq]
    refine ⟨(publish_heads _ _ _).trans ?_, publish_republishes (fun q => rfl) ?_, by simp⟩
    · rw [← clearShown_eq]
      rfl
    · exact not_mem_initialRest_of_answered (s := s) (List.mem_singleton.mpr rfl) hanswered

/-! ### Run records (R62) -/

theorem consumeRun_spec (s : State) (i : Fin 8) (header : List Byte) :
    let x := s.runs.slots[i]
    let frees : Prop := headerByte header 2 = 3 ∧ x.state = .closed ∧ headerHalf header 0 = x.number
    let t := s.handHeader (.run i) header
    (frees →
      t.runs = { s.runs with slots := s.runs.slots.set i { x with state := .free }, queue := s.runs.queue.erase i } ∧
      (s.path.initialRest = [] → Republishes [.run i] s t) ∧ OnlyChanges [.runs, .stamps, .publications] s t) ∧
    (¬frees → t = s) := by
  refine ⟨fun hfrees => ?_, fun hnot => if_neg fun h => hnot ⟨h.1, h.2.1, h.2.2.symm⟩⟩
  obtain ⟨hshown, hclosed, hnumber⟩ := hfrees
  have heq : s.handHeader (.run i) header = s.freeRun i := if_pos ⟨hshown, hclosed, hnumber.symm⟩
  rw [heq]
  exact ⟨publish_runs _ _ _, fun hrest => publish_republishes_of_published (fun q => rfl) hrest,
    (freeRun_frame i (by simp)).mpr (.refl _ s)⟩

/-! ### Trim and sort records (R125, R130) -/

theorem consumeTrim_spec (s : State) (i : Fin 16) (header : List Byte) :
    let x := s.trimRing[i]
    let consumes : Prop := headerByte header 0 = 1 ∧ x.state = .written ∧ headerHalf header 2 = x.lug
    let t := s.handHeader (.trim i) header
    (consumes →
      t.trimRing = s.trimRing.set i { x with state := .consumed } ∧
      (s.path.initialRest = [] → Republishes [.trim i] s t) ∧ OnlyChanges [.trimRing, .stamps, .publications] s t) ∧
    (¬consumes → t = s) := by
  refine ⟨fun hconsumes => ?_, fun hnot => if_neg fun h => hnot ⟨h.1, h.2.1, h.2.2.symm⟩⟩
  obtain ⟨hshown, hwritten, hlug⟩ := hconsumes
  have heq : s.handHeader (.trim i) header =
      (s.setTrim i { s.trimRing[i] with state := .consumed }).publish .output (.trim i) :=
    if_pos ⟨hshown, hwritten, hlug.symm⟩
  rw [heq]
  exact ⟨publish_trimRing _ _ _, fun hrest => publish_republishes_of_published (fun q => rfl) hrest, by simp⟩

theorem consumeSort_spec (s : State) (i : Fin 16) (header : List Byte) :
    let x := s.sortRing[i]
    let consumes : Prop := headerByte header 0 = 1 ∧ x.state = .written ∧ headerHalf header 2 = x.lug
    let t := s.handHeader (.sort i) header
    (consumes →
      t.sortRing = s.sortRing.set i { x with state := .consumed } ∧
      (s.path.initialRest = [] → Republishes [.sort i] s t) ∧ OnlyChanges [.sortRing, .stamps, .publications] s t) ∧
    (¬consumes → t = s) := by
  refine ⟨fun hconsumes => ?_, fun hnot => if_neg fun h => hnot ⟨h.1, h.2.1, h.2.2.symm⟩⟩
  obtain ⟨hshown, hwritten, hlug⟩ := hconsumes
  have heq : s.handHeader (.sort i) header =
      (s.setSort i { s.sortRing[i] with state := .consumed }).publish .output (.sort i) :=
    if_pos ⟨hshown, hwritten, hlug.symm⟩
  rw [heq]
  exact ⟨publish_sortRing _ _ _, fun hrest => publish_republishes_of_published (fun q => rfl) hrest, by simp⟩

/-! ### Notice slots (R177, R181, R182) -/

theorem consumeNotice_spec (s : State) (n : Fin 2) (slot : Fin 32) (header : List Byte) :
    let x := s.notices[n]
    let oldest := x.next - BitVec.ofNat 16 x.held
    let removes : Prop := s.beforeInitialWrite (.notice n slot) = false ∧ 0 < x.held ∧ headerByte header 0 ≠ 0 ∧
      headerHalf header 2 = oldest ∧ slot = noticeSlot oldest
    let t := s.handHeader (.notice n slot) header
    (removes →
      t.notices = s.notices.set n { x with held := x.held - 1, attn := attn t n } ∧
      (x.held = 1 → attn t n = false) ∧ (1 < x.held → attn t n = attn s n) ∧
      (s.path.initialRest = [] → Republishes [.status] s t) ∧ OnlyChanges [.notices, .stamps, .publications] s t) ∧
    (¬removes → t = s) := by
  refine ⟨fun hremoves => ?_, fun hnot => ?_⟩
  · obtain ⟨hanswered, hheld, hkind, hsequence, hslot⟩ := hremoves
    have heq : s.handHeader (.notice n slot) header = s.removeOldest n := by
      change s.consumeNotice n slot header = _
      unfold State.consumeNotice
      dsimp only
      rw [if_neg (by rw [hanswered]; exact Bool.noConfusion), if_pos ⟨hheld, hkind, hslot, hsequence⟩]
    rw [heq, removeOldest_attn]
    refine ⟨publish_notices _ _ _, fun hlast => ?_, fun hmore => ?_,
      fun hrest => publish_republishes_of_published (fun q => rfl) hrest, (removeOldest_frame n (by simp)).mpr (.refl _ s)⟩
    · rw [hlast]
      exact Bool.and_false _
    · rw [decide_eq_true hmore, Bool.and_true]
  · change s.consumeNotice n slot header = s
    unfold State.consumeNotice
    dsimp only
    by_cases hbefore : s.beforeInitialWrite (.notice n slot) = true
    · rw [if_pos hbefore]
    · rw [if_neg hbefore]
      refine if_neg fun h => hnot ?_
      obtain ⟨hheld, hkind, hslot, hsequence⟩ := h
      exact ⟨Bool.eq_false_iff.mpr hbefore, hheld, hkind, hsequence, hslot⟩

/-! ### The answer to a read (R148, R154, R158) -/

/-- The state in which a read has been answered and its headers are not yet handed over. -/
def State.readAnswered (s : State) (r : BusRead) (good : Bool) (data : List Byte) : State :=
  (s.setPath { s.path with openReads := s.path.openReads.erase r }).emit (.masterAnswer good data)

theorem readAnswered_only (r : BusRead) (good : Bool) (data : List Byte) :
    OnlyChanges [.openReads, .event, .ports] s (s.beginEvent.readAnswered r good data) := by
  intro f hf
  cases f <;> first | rfl | (simp at hf)

theorem upstreamRead_of_due {r : BusRead} {good : Bool} {data : List Byte} (hreleased : s.resetLow = false)
    (hopen : r ∈ s.path.openReads) (hturn : good = true → s.inTurn r = true) :
    s.upstreamRead (.answer r good data) = ((s.readAnswered r good data).handCovered r good data).takeGuards r := by
  rw [State.upstreamRead, if_neg (by rw [hreleased]; exact Bool.noConfusion)]
  exact if_pos ⟨hopen, hturn⟩

theorem handCovered_good {r : BusRead} {data : List Byte} {o : Nat} (hoffset : s.offsetOf r.addr = some (o, true)) :
    s.handCovered r true data = s.forEach (coveredHeaders o r.enables data) fun u x => u.handHeader x.1 x.2 := by
  simp only [State.handCovered, hoffset, if_true]

/-- R154, R158: a good answer, in its turn, to a read at the second address. -/
theorem consumingRead_answered {r : BusRead} {data : List Byte} {o : Nat} (hreleased : s.resetLow = false)
    (hopen : r ∈ s.path.openReads) (hturn : s.inTurn r = true) (hoffset : s.offsetOf r.addr = some (o, true)) :
    ∃ u v : State, s.beginEvent.upstreamRead (.answer r true data) = v.takeGuards r ∧
      v = u.forEach (coveredHeaders o r.enables data) (fun z y => z.handHeader y.1 y.2) ∧
      u.path.ports = [.masterAnswer true data] ∧ u.path.openReads = s.path.openReads.erase r ∧
      OnlyChanges [.openReads, .event, .ports] s u :=
  ⟨s.beginEvent.readAnswered r true data, _, upstreamRead_of_due (s := s.beginEvent) hreleased hopen fun _ => hturn,
    handCovered_good (s := s.beginEvent.readAnswered r true data) hoffset, rfl, rfl, readAnswered_only r true data⟩

end Sys2Proof.Machine

namespace Sys2Proof.Proofs

open Sys2Proof.Machine

/-- Settles O49, by `consumeHead_spec`. -/
theorem headRecordConsumed : Obligations.HeadRecordConsumed := by
  refine ⟨consumeHead_spec, fun s r data o hreleased hopen hturn hoffset => ?_⟩
  obtain ⟨u, v, hnext, hrest⟩ := consumingRead_answered (data := data) hreleased hopen hturn hoffset
  exact ⟨u, v, congrArg _ hnext, hrest⟩

/-- Settles O50, by `consumeRun_spec`. -/
theorem runRecordConsumed : Obligations.RunRecordConsumed := by
  refine ⟨consumeRun_spec, fun s r data o hreleased hopen hturn hoffset => ?_⟩
  obtain ⟨u, v, hnext, hrest⟩ := consumingRead_answered (data := data) hreleased hopen hturn hoffset
  exact ⟨u, v, congrArg _ hnext, hrest⟩

/-- Settles O51, by `consumeTrim_spec` and `consumeSort_spec`. -/
theorem trimSortRecordConsumed : Obligations.TrimSortRecordConsumed := by
  refine ⟨fun s i header => ⟨consumeTrim_spec s i header, consumeSort_spec s i header⟩,
    fun s r data o hreleased hopen hturn hoffset => ?_⟩
  obtain ⟨u, v, hnext, hrest⟩ := consumingRead_answered (data := data) hreleased hopen hturn hoffset
  exact ⟨u, v, congrArg _ hnext, hrest⟩

/-- Settles O52, by `consumeNotice_spec`. -/
theorem noticeConsumed : Obligations.NoticeConsumed := by
  refine ⟨consumeNotice_spec, fun s r data o hreleased hopen hturn hoffset => ?_⟩
  obtain ⟨u, v, hnext, hrest⟩ := consumingRead_answered (data := data) hreleased hopen hturn hoffset
  exact ⟨u, v, congrArg _ hnext, hrest⟩

end Sys2Proof.Proofs
end

section
/-! Upstream writes (R20, R148, R149, R151 to R154, R159, R160, R164): captured and forwarded, or guarded. -/

namespace Sys2Proof.Machine

variable {s : State} {w : BusWrite} {c : Instr} {o : Nat}

theorem exec_writeRow (hc : c ∈ writeRows w) : exec c s = .next (s.beginEvent.upstreamWrite w) := by
  simp only [writeRows, List.mem_cons, List.not_mem_nil, or_false] at hc
  rcases hc with rfl | rfl | rfl <;> rfl

/-! ### Forwarding (R148) -/

theorem forward_ports (s : State) (a : Nat) (w : BusWrite) : (s.forward a w).path.ports =
    s.path.ports ++ .forwardWrite a w.bytes :: w.answer.toList.map (fun good => .masterAnswer good []) := by
  unfold State.forward State.passAnswer
  cases w.answer with
  | none => rfl
  | some good => exact List.append_assoc _ _ _

theorem forward_only (s : State) (a : Nat) (w : BusWrite) : OnlyChanges [.ports] s (s.forward a w) :=
  (forward_frame a w (by simp)).mpr (.refl _ s)

theorem upstreamWrite_outside (hreleased : s.resetLow = false) (hoffset : s.offsetOf w.addr = none) :
    s.upstreamWrite w = s.forward w.addr w := by
  rw [State.upstreamWrite, if_neg (by rw [hreleased]; exact Bool.noConfusion), hoffset]

theorem upstreamWrite_inside {al : Bool} (hreleased : s.resetLow = false) (hoffset : s.offsetOf w.addr = some (o, al)) :
    s.upstreamWrite w = s.arenaWrite o w := by
  rw [State.upstreamWrite, if_neg (by rw [hreleased]; exact Bool.noConfusion), hoffset]

/-! ### Guarded writes (R152 to R154) -/

/-- One guarded write that takes effect (R152). -/
theorem takeGuard_spec (s : State) (n : Notice) :
    (s.takeGuard n).path.ports = s.path.ports ++ [.masterAnswer true []] ∧
    (s.takeGuard n).stats = s.stats.set 22 (satAdd s.stats[(22 : Fin 24)] 1) ∧
    (s.takeGuard n).notices = (s.raise n).notices :=
  have hone := forEach_takeGuard s [⟨n, []⟩]
  ⟨hone.1, hone.2.1, hone.2.2.1⟩

theorem arenaWrite_guarded {x : Host.Cell} {xs : List Host.Cell} {area : Area} (hbytes : enabledBytes o w.bytes = x :: xs)
    (hhit : s.guardHit (x :: xs) = some area) :
    s.arenaWrite o w = s.orderGuard ((s.path.arenaBase + x.1) / 64) (.guard area.code x.1 w.bytes.length) := by
  unfold State.arenaWrite
  dsimp only
  rw [hbytes, hhit]
  rfl

theorem orderGuard_of_none {block : Nat} {n : Notice} (h : s.readsAhead block = []) : s.orderGuard block n = s.takeGuard n := by
  rw [State.orderGuard, h]

theorem orderGuard_of_some {block : Nat} {n : Notice} (h : s.readsAhead block ≠ []) :
    s.orderGuard block n =
      s.setPath { s.path with waitingGuards := s.path.waitingGuards ++ [⟨n, s.readsAhead block⟩] } := by
  unfold State.orderGuard
  cases hreads : s.readsAhead block with
  | nil => exact absurd hreads h
  | cons q qs => rfl

/-! ### Captured writes (R151) -/

theorem mem_enabledBytes {bytes : List (Byte × Bool)} {x : Host.Cell} (hx : x ∈ enabledBytes o bytes) :
    o ≤ x.1 ∧ x.1 < o + bytes.length := by
  induction bytes generalizing o with
  | nil => exact nomatch hx
  | cons b bytes ih =>
    obtain ⟨value, enabled⟩ := b
    rw [List.length_cons]
    cases enabled with
    | false =>
      have hrest := ih (o := o + 1) hx
      omega
    | true =>
      rcases List.mem_cons.mp hx with rfl | hx
      · exact ⟨Nat.le_refl _, by omega⟩
      · have hrest := ih (o := o + 1) hx
        omega

theorem guardHit_eq_none {xs : List Host.Cell} (h : ∀ x ∈ xs, s.guardedArea x.1 = none) : s.guardHit xs = none :=
  List.findSome?_eq_none_iff.mpr h

/-- The state in which a write is captured and forwarded, and its events are not yet handed over. -/
def State.capturedForward (s : State) (o : Nat) (w : BusWrite) : State :=
  (s.setShadow (s.captured o w)).forward (s.path.arenaBase + o) w

theorem capturedForward_only (s : State) (o : Nat) (w : BusWrite) :
    OnlyChanges [.shadow, .event, .ports] s (s.beginEvent.capturedForward o w) := by
  have hshadow : OnlyChanges [.shadow, .event, .ports] s (s.beginEvent.setShadow (s.beginEvent.captured o w)) := by simp
  exact hshadow.trans ((forward_only _ _ w).mono (by simp))

theorem capturedForward_shadow (s : State) (o : Nat) (w : BusWrite) :
    (s.beginEvent.capturedForward o w).shadow = s.captured o w := forward_only _ _ w .shadow (by simp)

theorem capturedForward_ports (s : State) (o : Nat) (w : BusWrite) :
    (s.beginEvent.capturedForward o w).path.ports = s.forwarded o w := forward_ports _ _ w

theorem arenaWrite_free (h : ∀ x ∈ enabledBytes o w.bytes, s.guardedArea x.1 = none) :
    s.arenaWrite o w = s.captureWrite o w := by
  unfold State.arenaWrite
  dsimp only
  rw [guardHit_eq_none h]

theorem captureWrite_of_nil (h : ((enabledBytes o w.bytes).filter fun x => s.watches x.1) = []) :
    s.captureWrite o w = s.capturedForward o w := by
  unfold State.captureWrite State.capturedForward State.captured
  dsimp only
  rw [h]

theorem captureWrite_of_cons {x : Host.Cell} {xs : List Host.Cell}
    (h : ((enabledBytes o w.bytes).filter fun x => s.watches x.1) = x :: xs) :
    s.captureWrite o w = (s.capturedForward o w).captureEvents x.1 (x :: xs) := by
  unfold State.captureWrite State.capturedForward State.captured
  dsimp only
  rw [h]

theorem covers_mono {xs ys : List Host.Cell} {a n : Nat} (hsub : ∀ x ∈ ys, x ∈ xs) (h : covers ys a n = true) :
    covers xs a n = true := by
  simp only [covers, List.all_eq_true, List.any_eq_true] at h ⊢
  intro k hk
  obtain ⟨x, hx, heq⟩ := h k hk
  exact ⟨x, hsub x hx, heq⟩

/-- A capture of no frame slot's byte and no whole producer count has no events. -/
theorem captureEvents_none {x : Host.Cell} {xs : List Host.Cell} (hframe : areaOf x.1 ≠ some .frameRings)
    (hcommand : covers xs 0x1800 2 = false) (hoverride : covers xs 0x2800 2 = false) : s.captureEvents x.1 xs = s := by
  unfold State.captureEvents
  split
  case h_1 harea => exact absurd harea hframe
  case h_2 => rw [if_neg (by rw [hcommand]; exact Bool.noConfusion)]
  case h_3 => rw [if_neg (by rw [hoverride]; exact Bool.noConfusion)]
  case h_4 => rfl

/-! ### Frame slots (R20) -/

section Frames

variable {h : Fin 9} {slot : Fin 16} {k : Fin 4} {a : Nat}

theorem areaOf_frameRings (hlo : 0x10000 ≤ a) (hhi : a ≤ 0x18FFF) : areaOf a = some .frameRings := by
  rw [areaOf, if_neg (by omega), if_neg (by omega), if_neg (by omega), if_neg (by omega), if_neg (by omega),
    if_neg (by omega), if_neg (by omega), if_neg (by omega), if_pos (by omega)]

/-- The place of an offset in a block of a frame slot. -/
theorem frame_place (hlo : frameBase h slot + 64 * k.val ≤ a) (hhi : a < frameBase h slot + 64 * (k.val + 1)) :
    areaOf a = some .frameRings ∧ frameHead a = h ∧ frameSlot a = slot ∧ frameBlock a = k := by
  unfold frameBase at hlo hhi
  have hh := h.isLt
  have hs := slot.isLt
  have hk := k.isLt
  refine ⟨areaOf_frameRings (by omega) (by omega), Fin.ext ?_, Fin.ext ?_, Fin.ext ?_⟩
  · simp only [frameHead, Fin.val_ofNat]
    omega
  · simp only [frameSlot, Fin.val_ofNat]
    omega
  · simp only [frameBlock, Fin.val_ofNat]
    omega

theorem guardedArea_frameRings (harea : areaOf a = some .frameRings) : s.guardedArea a = none := by
  simp only [State.guardedArea, harea, State.guards, Bool.false_eq_true, if_false]

theorem watches_frameRings (harea : areaOf a = some .frameRings) : s.watches a = true := by
  simp only [State.watches, harea, State.guards, Bool.not_false]

/-- R20: a capture into a frame slot that leaves its trailer marks the block and is no arrival. -/
theorem frameEvents_of_partial {xs : List Host.Cell} (hhead : frameHead a = h) (hslot : frameSlot a = slot)
    (hblock : frameBlock a = k) (htrailer : covers xs (frameBase h slot + 0xF8) 8 = false) :
    s.frameEvents a xs = s.markBlock h slot k := by
  subst hhead hslot hblock
  exact if_neg (by rw [htrailer]; exact Bool.noConfusion)

theorem markBlock_only (s : State) (h : Fin 9) (slot : Fin 16) (k : Fin 4) :
    OnlyChanges [.heads] s (s.markBlock h slot k) := (markBlock_frame h slot k (by simp)).mpr (.refl _ s)

end Frames

/-! ### Producer counts (R159, R160, R164) -/

/-- The area of a ring's producer count. -/
def Ring.countArea : Ring → Area
  | .command => .commandCount
  | .override => .overrideCount

theorem areaOf_count {ring : Ring} {a : Nat} (hlo : ring.countOffset ≤ a) (hhi : a ≤ ring.countOffset + 3) :
    areaOf a = some ring.countArea := by
  cases ring <;> simp only [Ring.countOffset] at hlo hhi
  case command => rw [areaOf, if_neg (by omega), if_neg (by omega), if_pos (by omega), Ring.countArea]
  case override =>
    rw [areaOf, if_neg (by omega), if_neg (by omega), if_neg (by omega), if_neg (by omega), if_pos (by omega),
      Ring.countArea]

theorem areaOf_afterCount {ring : Ring} {a : Nat} (hlo : ring.countOffset + 3 < a) (hhi : a < ring.countOffset + 64) :
    areaOf a = none := by
  cases ring <;> simp only [Ring.countOffset] at hlo hhi <;>
    rw [areaOf, if_neg (by omega), if_neg (by omega), if_neg (by omega), if_neg (by omega), if_neg (by omega),
      if_neg (by omega), if_neg (by omega), if_neg (by omega), if_neg (by omega), if_neg (by omega), if_neg (by omega),
      if_neg (by omega), if_neg (by omega), if_neg (by omega), if_neg (by omega), if_neg (by omega), if_neg (by omega),
      if_neg (by omega)]

theorem not_guarded_countBlock {ring : Ring} {a : Nat} (hlo : ring.countOffset ≤ a) (hhi : a < ring.countOffset + 64) :
    s.guardedArea a = none := by
  rw [State.guardedArea]
  by_cases ha : a ≤ ring.countOffset + 3
  · rw [areaOf_count hlo ha]
    cases ring <;> rfl
  · rw [areaOf_afterCount (by omega) hhi]

theorem watches_countBlock {ring : Ring} {a : Nat} (hlo : ring.countOffset ≤ a) (hhi : a < ring.countOffset + 64) :
    s.watches a = true ↔ a ≤ ring.countOffset + 3 := by
  rw [State.watches]
  by_cases ha : a ≤ ring.countOffset + 3
  · rw [areaOf_count hlo ha]
    cases ring <;> simpa [Ring.countArea, State.guards] using ha
  · rw [areaOf_afterCount (by omega) hhi]
    simpa using ha

theorem captureEvents_count {ring : Ring} {a : Nat} {xs : List Host.Cell} (harea : areaOf a = some ring.countArea)
    (hcovers : covers xs ring.countOffset 2 = true) : s.captureEvents a xs = s.countArrival ring := by
  cases ring <;> (rw [State.captureEvents, harea]; exact if_pos hcovers)

/-- R149: the block of 64 bytes stands in the arena as on the bus. -/
theorem offset_mod {al : Bool} (hplaced : s.ArenaPlaced) (hoffset : s.offsetOf w.addr = some (o, al)) :
    o % 64 = w.addr % 64 := by
  obtain ⟨k, -, hbase⟩ := hplaced
  have hsize : arenaSize = 64 * 0x20000 := by decide
  have hhalf : halfArena = 64 * 0x10000 := by decide
  unfold State.offsetOf at hoffset
  split at hoffset
  · dsimp only at hoffset
    split at hoffset <;> (obtain ⟨rfl, -⟩ := Prod.mk.inj (Option.some.inj hoffset); rw [hbase, hsize] at *; omega)
  · exact nomatch hoffset

/-- A write that covers a producer count is captured whole where it matters, and its one event is the count's arrival. -/
theorem arenaWrite_count {ring : Ring} {al : Bool} (hplaced : s.ArenaPlaced) (hwf : w.wf = true)
    (hoffset : s.offsetOf w.addr = some (o, al)) (hcovers : covers (enabledBytes o w.bytes) ring.countOffset 2 = true) :
    s.arenaWrite o w = (s.capturedForward o w).countArrival ring := by
  have hmod := offset_mod hplaced hoffset
  have hcount : ring.countOffset % 64 = 0 := by cases ring <;> rfl
  have hblock : w.addr % 64 + w.bytes.length ≤ 64 := by
    simp only [BusWrite.wf, inOneBlock, Bool.and_eq_true, decide_eq_true_eq] at hwf
    exact hwf.2
  have hbyte : ∀ j < 2, ∃ x ∈ enabledBytes o w.bytes, x.1 = ring.countOffset + j := by
    intro j hj
    simp only [covers, List.all_eq_true, List.any_eq_true, decide_eq_true_eq] at hcovers
    exact hcovers j (List.mem_range.mpr hj)
  have hplace : ∀ x ∈ enabledBytes o w.bytes, ring.countOffset ≤ x.1 ∧ x.1 < ring.countOffset + 64 := by
    intro x hx
    obtain ⟨y, hy, heq⟩ := hbyte 0 (by omega)
    have hybounds := mem_enabledBytes hy
    have hxbounds := mem_enabledBytes hx
    omega
  have hwatched : ∀ x ∈ enabledBytes o w.bytes, s.watches x.1 = true ↔ x.1 ≤ ring.countOffset + 3 := fun x hx =>
    watches_countBlock (hplace x hx).1 (hplace x hx).2
  rw [arenaWrite_free fun x hx => not_guarded_countBlock (hplace x hx).1 (hplace x hx).2]
  cases hfiltered : (enabledBytes o w.bytes).filter fun x => s.watches x.1 with
  | nil =>
    obtain ⟨y, hy, heq⟩ := hbyte 0 (by omega)
    exact absurd ((hwatched y hy).mpr (by omega)) (List.filter_eq_nil_iff.mp hfiltered y hy)
  | cons x xs =>
    have hx : x ∈ (enabledBytes o w.bytes).filter fun x => s.watches x.1 := by rw [hfiltered]; exact List.mem_cons_self
    obtain ⟨hx, hxwatched⟩ := List.mem_filter.mp hx
    rw [captureWrite_of_cons hfiltered, ← hfiltered]
    refine captureEvents_count (areaOf_count (hplace x hx).1 ((hwatched x hx).mp hxwatched)) ?_
    simp only [covers, List.all_eq_true, List.any_eq_true, decide_eq_true_eq]
    intro j hj
    have hj : j < 2 := List.mem_range.mp hj
    obtain ⟨y, hy, heq⟩ := hbyte j hj
    exact ⟨y, List.mem_filter.mpr ⟨hy, (hwatched y hy).mpr (by omega)⟩, heq⟩

/-! ### The three ends of an arrival (R159, R160, R164) -/

section Arrival

variable {ring : Ring}

theorem setCounts_only (s : State) (ring : Ring) (x : RingCounts) : OnlyChanges [ring.field] s (s.setCounts ring x) := by
  cases ring
  · exact (setCounts_command_frame x (by simp [Ring.field])).mpr (.refl _ s)
  · exact (setCounts_override_frame x (by simp [Ring.field])).mpr (.refl _ s)

theorem counts_of_only {t : State} {T : List Field} (h : OnlyChanges T s t) (hring : ring.field ∉ T) :
    t.counts ring = s.counts ring := by
  cases ring
  · exact h .cmdRing hring
  · exact h .ovrRing hring

theorem publish_counts (s : State) (owner : FunctionalBlock) (r : Record) (ring : Ring) :
    (s.publish owner r).counts ring = s.counts ring :=
  counts_of_only (T := [.stamps, .publications]) ((publish_frame owner r (by simp)).mpr (.refl _ s))
    (by cases ring <;> simp [Ring.field])

/-- The taking of entries leaves the counts of the ring and the ports. -/
theorem forEach_takeEntry_only (s : State) (xs : List (Fin 64 × RingEntry)) :
    OnlyChanges [.lineState, .config, .lugLine, .boards, .heads, .solver, .held, .bins, .logUnit, .runs, .stats, .banks,
      .sawMask, .routes, .notices, .stamps, .publications, .shadow] s (s.forEach xs fun x e => x.takeEntry e.1 e.2) := by
  refine (onlyChanges_forEach fun u e => ?_).mpr (.refl _ s)
  obtain ⟨i, entry⟩ := e
  cases entry <;> simp [State.takeEntry]

theorem ahead_eq_zero_iff {count consumer : Half} : (count - consumer).toNat = 0 ↔ count = consumer := by
  constructor
  · intro hzero
    bv_omega
  · rintro rfl
    rw [BitVec.sub_self]
    rfl

theorem takeArrival_of_eq (s : State) (ring : Ring) : s.takeArrival ring (s.counts ring).consumer =
    s.setCounts ring ⟨(s.counts ring).consumer, (s.counts ring).consumer, none⟩ := by
  unfold State.takeArrival
  exact if_pos (ahead_eq_zero_iff.mpr rfl)

/-- R159 and R160: a valid count out of INIT that announces entries. -/
theorem takeArrival_of_ne {count : Half} (hne : count ≠ (s.counts ring).consumer) :
    let u := s.setCounts ring ⟨count, (s.counts ring).consumer, none⟩
    let v := u.forEach (s.arriving ring (count - (s.counts ring).consumer).toNat) fun x e => x.takeEntry e.1 e.2
    s.takeArrival ring count = (v.setCounts ring { v.counts ring with consumer := count }).publish ring.owner .status ∧
      v.counts ring = ⟨count, (s.counts ring).consumer, none⟩ := by
  intro u v
  refine ⟨if_neg (ahead_eq_zero_iff.not.mpr hne), ?_⟩
  have hkept : v.counts ring = u.counts ring :=
    counts_of_only (forEach_takeEntry_only u _) (by cases ring <;> simp [Ring.field])
  rw [hkept]
  exact counts_setCounts _ _ _

theorem countArrival_ports (s : State) (ring : Ring) : (s.countArrival ring).path.ports = s.path.ports :=
  (countArrival_frame (T := [.lineState, .config, .lugLine, .boards, .heads, .solver, .held, .bins, .logUnit, .runs, .stats,
    .cmdRing, .ovrRing, .banks, .sawMask, .routes, .notices, .stamps, .publications, .shadow]) ring (fun _ hf => hf)).mpr
    (.refl _ s) .ports (by simp)

theorem countArrival_of_far {count : Half} (hcount : s.countWord ring = count)
    (hfar : 64 < (count - (s.counts ring).consumer).toNat) :
    s.countArrival ring = (s.raise (.ringError ring.code count (s.counts ring).consumer)).bump .ringErrors := by
  subst hcount
  exact if_pos hfar

theorem countArrival_in_init {count : Half} (hcount : s.countWord ring = count)
    (hnear : (count - (s.counts ring).consumer).toNat ≤ 64) (hinit : s.lineState = .init) :
    s.countArrival ring = s.deferArrival ring count := by
  subst hcount
  exact (if_neg (Nat.not_lt.mpr hnear)).trans (if_pos hinit)

theorem countArrival_out_of_init {count : Half} (hcount : s.countWord ring = count)
    (hnear : (count - (s.counts ring).consumer).toNat ≤ 64) (hinit : s.lineState ≠ .init) :
    s.countArrival ring = s.takeArrival ring count := by
  subst hcount
  exact (if_neg (Nat.not_lt.mpr hnear)).trans (if_neg hinit)

end Arrival

end Sys2Proof.Machine

namespace Sys2Proof.Proofs

open Sys2Proof.Machine

/-- Settles O47: by whether a consuming read of the block is ahead, and `takeGuards_spec`. -/
theorem guardedWriteDiscarded : Obligations.GuardedWriteDiscarded := by
  refine ⟨fun s w c o al x xs area hc hreleased hoffset hbytes hhit => ?_, fun s r => ?_⟩
  · intro n ahead
    have hnext : s.beginEvent.upstreamWrite w = s.beginEvent.orderGuard ((s.path.arenaBase + x.1) / 64) n :=
      (upstreamWrite_inside (s := s.beginEvent) hreleased hoffset).trans (arenaWrite_guarded hbytes hhit)
    refine ⟨_, exec_writeRow hc, fun hnone => ?_, fun hsome => ?_⟩
    · rw [hnext, orderGuard_of_none (s := s.beginEvent) hnone]
      obtain ⟨hports, hstats, hnotices⟩ := takeGuard_spec s.beginEvent n
      exact ⟨hports, hstats, hnotices.trans (raise_notices_congr (s := s) (t := s.beginEvent) rfl rfl n), by simp⟩
    · rw [hnext, orderGuard_of_some (s := s.beginEvent) hsome]
      refine ⟨rfl, rfl, fun f hf => ?_⟩
      cases f <;> first | rfl | (simp at hf)
  · intro gs due t
    obtain ⟨hwaiting, hports, hstats, hnotices, hframe⟩ := takeGuards_spec s r
    exact ⟨hwaiting, hports, hstats, hnotices, hframe, fun hnone => takeGuards_of_none hnone r⟩

/-- Settles O46: a write outside the arena; one with no events; one of a frame slot's block; one of a producer count. -/
theorem watchedWriteCaptured : Obligations.WatchedWriteCaptured := by
  refine ⟨fun s w c hc hreleased hoffset => ⟨_, exec_writeRow hc, ?_, ?_⟩, fun s w c o al hc hreleased hwf hoffset => ?_⟩
  · rw [upstreamWrite_outside (s := s.beginEvent) hreleased hoffset]
    exact forward_ports s.beginEvent w.addr w
  · rw [upstreamWrite_outside (s := s.beginEvent) hreleased hoffset]
    simp
  intro xs
  have hnext : s.beginEvent.upstreamWrite w = s.beginEvent.arenaWrite o w :=
    upstreamWrite_inside (s := s.beginEvent) hreleased hoffset
  have hshadow := capturedForward_shadow s o w
  have hports := capturedForward_ports s o w
  have honly := capturedForward_only s o w
  refine ⟨fun hfree hcommand hoverride => ⟨_, exec_writeRow hc, ?plain⟩,
    fun h slot k hlo hhi hsome htrailer => ⟨_, exec_writeRow hc, ?block⟩, fun ring hplaced hcovers => ?count⟩
  case plain =>
    have hdone : s.beginEvent.upstreamWrite w = s.beginEvent.capturedForward o w := by
      rw [hnext, arenaWrite_free (s := s.beginEvent) fun x hx => (hfree x hx).1]
      cases hfiltered : (enabledBytes o w.bytes).filter fun x => s.beginEvent.watches x.1 with
      | nil => exact captureWrite_of_nil hfiltered
      | cons x ys =>
        have hsub : ∀ y ∈ x :: ys, y ∈ enabledBytes o w.bytes := fun y hy =>
          List.mem_of_mem_filter (hfiltered ▸ hy)
        have hnot : ∀ a, covers xs a 2 = false → covers (x :: ys) a 2 = false := fun a ha =>
          Bool.eq_false_iff.mpr fun htrue => Bool.false_ne_true (ha.symm.trans (covers_mono hsub htrue))
        rw [captureWrite_of_cons hfiltered]
        exact captureEvents_none (hfree x (hsub x List.mem_cons_self)).2 (hnot _ hcommand) (hnot _ hoverride)
    rw [hdone]
    exact ⟨hshadow, hports, honly⟩
  case block =>
    have hplace : ∀ x ∈ xs, areaOf x.1 = some .frameRings ∧ frameHead x.1 = h ∧ frameSlot x.1 = slot ∧ frameBlock x.1 = k := by
      intro x hx
      have hbounds := mem_enabledBytes hx
      exact frame_place (by omega) (by omega)
    have hall : ((enabledBytes o w.bytes).filter fun x => s.watches x.1) = xs :=
      List.filter_eq_self.mpr fun x hx => watches_frameRings (hplace x hx).1
    have hcaptured : s.captured o w = writeBytes s.shadow xs := congrArg (writeBytes s.shadow) hall
    have hdone : s.beginEvent.upstreamWrite w = (s.beginEvent.capturedForward o w).markBlock h slot k := by
      rw [hnext, arenaWrite_free (s := s.beginEvent) fun x hx => guardedArea_frameRings (hplace x hx).1]
      obtain ⟨x, ys, hcons⟩ := List.exists_cons_of_ne_nil hsome
      obtain ⟨harea, hhead, hslot, hblock⟩ := hplace x (hcons ▸ List.mem_cons_self)
      rw [captureWrite_of_cons (s := s.beginEvent) (hall.trans hcons), State.captureEvents, harea, ← hcons]
      exact frameEvents_of_partial hhead hslot hblock htrailer
    rw [hdone]
    have hmarked := markBlock_only (s.beginEvent.capturedForward o w) h slot k
    have hheads : (s.beginEvent.capturedForward o w).heads = s.heads := honly .heads (by simp)
    refine ⟨Eq.trans (hmarked .shadow (by simp)) (hshadow.trans hcaptured), Eq.trans (hmarked .ports (by simp)) hports, ?_,
      (honly.mono (by simp)).trans (hmarked.mono (by simp))⟩
    rw [← hheads]
    rfl
  case count =>
    intro count consumer entry
    have hdone : s.beginEvent.upstreamWrite w = (s.beginEvent.capturedForward o w).countArrival ring :=
      hnext.trans (arenaWrite_count (s := s.beginEvent) hplaced hwf hoffset hcovers)
    have hcounts : (s.beginEvent.capturedForward o w).counts ring = s.counts ring :=
      counts_of_only honly (by cases ring <;> simp [Ring.field])
    have hword : (s.beginEvent.capturedForward o w).countWord ring = count := by rw [State.countWord, hshadow]
    have hline : (s.beginEvent.capturedForward o w).lineState = s.lineState := honly .lineState (by simp)
    have harrival := countArrival_ports (s.beginEvent.capturedForward o w) ring
    refine ⟨_, exec_writeRow hc, by rw [hdone, harrival, hports], fun hfar => ?far, fun hnear hinit => ?init,
      fun hnear hinit => ?taken⟩
    case far =>
      have hraised : OnlyChanges [.notices, .stamps, .publications] (s.beginEvent.capturedForward o w)
          ((s.beginEvent.capturedForward o w).raise (.ringError ring.code count consumer)) :=
        (raise_frame _ (by simp)).mpr (.refl _ _)
      have hstats : ((s.beginEvent.capturedForward o w).raise (.ringError ring.code count consumer)).stats = s.stats :=
        Eq.trans (hraised .stats (by simp)) (honly .stats (by simp))
      have hnotices := raise_notices_congr (s := s) (t := s.beginEvent.capturedForward o w) (honly .notices (by simp))
        (honly .routes (by simp)) (.ringError ring.code count consumer)
      rw [hdone, countArrival_of_far hword (by rwa [hcounts]), hcounts]
      exact ⟨Eq.trans (hraised .shadow (by simp)) hshadow,
        congrArg (fun xs : Vector Word 24 => xs.set 23 (satAdd xs[(23 : Fin 24)] 1)) hstats, hnotices,
        OnlyChanges.trans (honly.mono (by simp)) ((bump_frame _ (by simp)).mpr (hraised.mono (by simp)))⟩
    case init =>
      have hset := setCounts_only (s.beginEvent.capturedForward o w) ring
        { s.counts ring with pendingCount := if count = consumer then none else some count }
      rw [hdone, countArrival_in_init hword (by rwa [hcounts]) (by rwa [hline]), State.deferArrival, hcounts]
      refine ⟨Eq.trans (hset .shadow (by cases ring <;> simp [Ring.field])) hshadow, counts_setCounts _ _ _,
        (honly.mono (by simp)).trans (hset.mono (by simp))⟩
    case taken =>
      have hset : ∀ x : RingCounts, OnlyChanges [.shadow, ring.field, .event, .ports] s
          ((s.beginEvent.capturedForward o w).setCounts ring x) := fun x =>
        (honly.mono (by simp)).trans ((setCounts_only _ ring x).mono (by simp))
      have hkept : ∀ x : RingCounts, ((s.beginEvent.capturedForward o w).setCounts ring x).shadow = s.captured o w := fun x =>
        Eq.trans (setCounts_only (s.beginEvent.capturedForward o w) ring x .shadow (by cases ring <;> simp [Ring.field]))
          hshadow
      rw [hdone, countArrival_out_of_init hword (by rwa [hcounts]) (by rwa [hline])]
      by_cases heq : count = consumer
      · have hsame := takeArrival_of_eq (s.beginEvent.capturedForward o w) ring
        rw [hcounts] at hsame
        simp only [heq, consumer]
        rw [hsame]
        exact ⟨counts_setCounts _ _ _, fun _ => ⟨hkept _, hset _⟩, fun hne => absurd rfl hne⟩
      · obtain ⟨htaken, hafter⟩ := takeArrival_of_ne (s := s.beginEvent.capturedForward o w) (ring := ring) (count := count)
          (by rwa [hcounts])
        rw [hcounts] at htaken hafter
        refine ⟨?_, fun hyes => absurd hyes heq, fun _ => ⟨_, _, ⟨hkept _, counts_setCounts _ _ _, hset _⟩, ?_, htaken⟩⟩
        · rw [htaken, publish_counts, counts_setCounts, hafter]
        · rw [State.arriving, hcounts, hshadow]

end Sys2Proof.Proofs
end

section
/-! Upstream reads (R148, R149, R154, R156, R158): which of them are held, which consume, and when their answer is due. -/

namespace Sys2Proof.Machine

variable {s : State} {r : BusRead}

/-! ### Header words (R158, Table 9-3) -/

theorem lt_length_of_coversWord {enables : List Bool} {k : Nat} (h : coversWord enables k = true) : k < enables.length := by
  have hword : (enables.drop k).take 8 = List.replicate 8 true := of_decide_eq_true h
  have hlength := congrArg List.length hword
  rw [List.length_take, List.length_drop, List.length_replicate] at hlength
  omega

/-- R158: the headers a read covers are those of the places, in ascending order, where a covered word starts a record. -/
theorem coveredHeaders_spec (o : Nat) (enables : List Bool) (data : List Byte) :
    ∃ ks : List Nat, ks.Pairwise (fun j k => j < k) ∧
      (∀ k, k ∈ ks ↔ (enables.drop k).take 8 = List.replicate 8 true ∧ consumingRecord (o + k) ≠ none) ∧
      coveredHeaders o enables data =
        ks.filterMap fun k => (consumingRecord (o + k)).map fun x => (x, (data.drop k).take 8) := by
  refine ⟨(List.range enables.length).filter fun k => coversWord enables k && (consumingRecord (o + k)).isSome,
    List.pairwise_lt_range.filter _, fun k => ?_, ?_⟩
  · rw [List.mem_filter, Bool.and_eq_true, Option.isSome_iff_ne_none, List.mem_range]
    constructor
    · rintro ⟨-, hword, hrecord⟩
      exact ⟨of_decide_eq_true hword, hrecord⟩
    · rintro ⟨hword, hrecord⟩
      have hcovers : coversWord enables k = true := decide_eq_true hword
      exact ⟨lt_length_of_coversWord hcovers, hcovers, hrecord⟩
  · rw [coveredHeaders, List.filterMap_filter]
    refine List.filterMap_congr fun k _ => ?_
    cases hrecord : consumingRecord (o + k) <;> cases hcovers : coversWord enables k <;> rfl

/-- The first offset of an area (Table 9-1). -/
def Area.first : Area → Nat
  | .statusBlock => 0
  | .commandRing => 0x1000
  | .commandCount => 0x1800
  | .overrideRing => 0x2000
  | .overrideCount => 0x2800
  | .configBlock => 0x3000
  | .bankA => 0x4000
  | .bankB => 0x5000
  | .frameRings => 0x10000
  | .headRecords => 0x20000
  | .boardTable => 0x30000
  | .trimRing => 0x40000
  | .sortRing => 0x41000
  | .runRecords => 0x50000
  | .binRecords => 0x60000
  | .noticeRings => 0x70000
  | .statistics => 0x80000
  | .logRing => 0x90000

/-- The last offset of an area (Table 9-1). -/
def Area.last : Area → Nat
  | .statusBlock => 0xFFF
  | .commandRing => 0x17FF
  | .commandCount => 0x1803
  | .overrideRing => 0x27FF
  | .overrideCount => 0x2803
  | .configBlock => 0x3FFF
  | .bankA => 0x4FFF
  | .bankB => 0x5FFF
  | .frameRings => 0x18FFF
  | .headRecords => 0x2023F
  | .boardTable => 0x37FFF
  | .trimRing => 0x401FF
  | .sortRing => 0x411FF
  | .runRecords => 0x53FFF
  | .binRecords => 0x6051F
  | .noticeRings => 0x703FF
  | .statistics => 0x800FF
  | .logRing => 0x90FFF

/-- One line of Table 9-1. -/
theorem ite_area_eq_some {p : Prop} [Decidable p] {x y : Area} {rest : Option Area} :
    (if p then some x else rest) = some y ↔ (p ∧ x = y) ∨ (¬p ∧ rest = some y) := by
  by_cases h : p <;> simp [h]

theorem areaOf_eq_some_iff {a : Nat} {x : Area} : areaOf a = some x ↔ x.first ≤ a ∧ a ≤ x.last := by
  unfold areaOf
  simp only [ite_area_eq_some]
  cases x <;> simp only [Area.first, Area.last, reduceCtorEq, and_false, and_true, or_false, false_or] <;> omega

/-- A record number below n is the number it is read back as. -/
theorem ofNat_eq_of_eq_val {n : Nat} [NeZero n] {i : Fin n} {k : Nat} (h : k % n = i.val) : Fin.ofNat n k = i := Fin.ext h

/-- The records with a consuming effect, where their header words start (Table 9-3). -/
theorem consumingRecord_eq_some_iff {a : Nat} {x : Record} : consumingRecord a = some x ↔
    (∃ h : Fin 9, x = .head h ∧ a = 0x20000 + 0x40 * h.val) ∨
    (∃ i : Fin 8, x = .run i ∧ a = 0x50000 + 0x800 * i.val) ∨
    (∃ i : Fin 16, x = .trim i ∧ a = 0x40000 + 0x20 * i.val) ∨
    (∃ i : Fin 16, x = .sort i ∧ a = 0x41000 + 0x20 * i.val) ∨
    ∃ (n : Fin 2) (slot : Fin 32), x = .notice n slot ∧ a = 0x70000 + 0x200 * n.val + 0x10 * slot.val := by
  constructor
  · intro h
    unfold consumingRecord at h
    split at h <;> try split at h
    all_goals try exact absurd h.symm (Option.some_ne_none x)
    all_goals
      obtain ⟨hfirst, hlast⟩ := areaOf_eq_some_iff.mp ‹_›
      obtain rfl := Option.some.inj h
      simp only [Area.first, Area.last] at hfirst hlast
    · exact .inl ⟨_, rfl, by simp only [Fin.ofNat]; omega⟩
    · exact .inr (.inl ⟨_, rfl, by simp only [Fin.ofNat]; omega⟩)
    · exact .inr (.inr (.inl ⟨_, rfl, by simp only [Fin.ofNat]; omega⟩))
    · exact .inr (.inr (.inr (.inl ⟨_, rfl, by simp only [Fin.ofNat]; omega⟩)))
    · exact .inr (.inr (.inr (.inr ⟨_, _, rfl, by simp only [Fin.ofNat]; omega⟩)))
  · rintro (⟨h, rfl, rfl⟩ | ⟨i, rfl, rfl⟩ | ⟨i, rfl, rfl⟩ | ⟨i, rfl, rfl⟩ | ⟨n, slot, rfl, rfl⟩)
    · have harea := areaOf_eq_some_iff (x := .headRecords).mpr ⟨Nat.le_add_right 0x20000 (0x40 * h.val), by
        simp only [Area.last]; omega⟩
      simp only [consumingRecord, harea]
      rw [if_pos (by omega), ofNat_eq_of_eq_val (i := h) (by omega)]
    · have harea := areaOf_eq_some_iff (x := .runRecords).mpr ⟨Nat.le_add_right 0x50000 (0x800 * i.val), by
        simp only [Area.last]; omega⟩
      simp only [consumingRecord, harea]
      rw [if_pos (by omega), ofNat_eq_of_eq_val (i := i) (by omega)]
    · have harea := areaOf_eq_some_iff (x := .trimRing).mpr ⟨Nat.le_add_right 0x40000 (0x20 * i.val), by
        simp only [Area.last]; omega⟩
      simp only [consumingRecord, harea]
      rw [if_pos (by omega), ofNat_eq_of_eq_val (i := i) (by omega)]
    · have harea := areaOf_eq_some_iff (x := .sortRing).mpr ⟨Nat.le_add_right 0x41000 (0x20 * i.val), by
        simp only [Area.last]; omega⟩
      simp only [consumingRecord, harea]
      rw [if_pos (by omega), ofNat_eq_of_eq_val (i := i) (by omega)]
    · have harea := areaOf_eq_some_iff (x := .noticeRings) (a := 0x70000 + 0x200 * n.val + 0x10 * slot.val).mpr
        ⟨by simp only [Area.first]; omega, by simp only [Area.last]; omega⟩
      simp only [consumingRecord, harea]
      rw [if_pos (by omega), ofNat_eq_of_eq_val (i := n) (by omega), ofNat_eq_of_eq_val (i := slot) (by omega)]

/-- R158: a consuming read is made at the second address and covers a header word of Table 9-3. -/
theorem consumes_iff : s.consumes r = true ↔ ∃ o k x, s.offsetOf r.addr = some (o, true) ∧
    (r.enables.drop k).take 8 = List.replicate 8 true ∧ consumingRecord (o + k) = some x := by
  unfold State.consumes
  split
  case h_1 o hoffset =>
    rw [List.any_eq_true]
    constructor
    · rintro ⟨k, -, hk⟩
      obtain ⟨hcovers, hsome⟩ := Bool.and_eq_true_iff.mp hk
      obtain ⟨x, hx⟩ := Option.isSome_iff_exists.mp hsome
      exact ⟨o, k, x, hoffset, of_decide_eq_true hcovers, hx⟩
    · rintro ⟨o', k, x, ho, hword, hx⟩
      obtain ⟨rfl⟩ : o = o' := congrArg Prod.fst (Option.some.inj (hoffset.symm.trans ho))
      have hcovers : coversWord r.enables k = true := decide_eq_true hword
      exact ⟨k, List.mem_range.mpr (lt_length_of_coversWord hcovers), by rw [hcovers, hx]; rfl⟩
  case h_2 hnone =>
    refine iff_of_false Bool.noConfusion ?_
    rintro ⟨o, k, x, ho, -, -⟩
    exact hnone o ho

/-- What stands before the first place of a member of a list. -/
theorem takeWhile_ne_of_split {r : BusRead} {earlier later : List BusRead} (h : r ∉ earlier) :
    ((earlier ++ r :: later).takeWhile fun q => decide (q ≠ r)) = earlier := by
  rw [List.takeWhile_append_of_pos (p := fun q => decide (q ≠ r)) fun q hq => decide_eq_true fun heq => h (heq ▸ hq),
    List.takeWhile_cons_of_neg (by simp), List.append_nil]

/-- R154: a read is out of turn where it consumes and a consuming read of its block was forwarded before it. -/
theorem inTurn_eq_false_iff (hopen : r ∈ s.path.openReads) :
    s.inTurn r = false ↔ s.consumes r = true ∧ ∃ earlier later, s.path.openReads = earlier ++ r :: later ∧
      r ∉ earlier ∧ ∃ q ∈ earlier, s.consumes q = true ∧ s.readBlock q = s.readBlock r := by
  have hbefore : ∀ earlier later, s.path.openReads = earlier ++ r :: later → r ∉ earlier →
      (s.inTurn r = false ↔ s.consumes r = true ∧ ∃ q ∈ earlier, s.consumes q = true ∧ s.readBlock q = s.readBlock r) := by
    intro earlier later hsplit hnot
    rw [State.inTurn, hsplit, takeWhile_ne_of_split hnot]
    simp
  obtain ⟨earlier, later, hsplit, hnot⟩ := List.eq_append_cons_of_mem hopen
  constructor
  · intro h
    obtain ⟨hconsumes, hq⟩ := (hbefore earlier later hsplit hnot).mp h
    exact ⟨hconsumes, earlier, later, hsplit, hnot, hq⟩
  · rintro ⟨hconsumes, earlier', later', hsplit', hnot', hq⟩
    exact (hbefore earlier' later' hsplit' hnot').mpr ⟨hconsumes, hq⟩

/-! ### Publications in transit (R155 to R157) -/

/-- A publication waits for no earlier one where it writes another record or entry, and is not made for the same event
by the same block. -/
theorem waitsFor_eq_false_iff {p q : Publication} : p.waitsFor q = false ↔
    q.target ≠ p.target ∧ (∀ y ∈ p.target.records, y ∉ q.target.records) ∧ ¬(q.owner = p.owner ∧ q.event = p.event) := by
  simp only [Publication.waitsFor, Bool.or_eq_false_iff, Bool.and_eq_false_iff, decide_eq_false_iff_not,
    List.any_eq_false, decide_eq_true_eq, and_assoc, ne_comm (a := q.target), eq_comm (a := q.owner), eq_comm (a := q.event),
    not_and_or, ne_eq]

/-- Log entry 10: a publication is in transit where it waits for none of those before it. -/
theorem mem_transitFrom_cons {k n : Nat} {before ps : List Publication} {x : Publication} :
    k ∈ transitFrom before n (x :: ps) ↔
      (k = n ∧ ∀ q ∈ before, x.waitsFor q = false) ∨ k ∈ transitFrom (x :: before) (n + 1) ps := by
  have hany : before.any x.waitsFor = false ↔ ∀ q ∈ before, x.waitsFor q = false := by simp
  rw [transitFrom, ← hany]
  split
  case isTrue h => simp [h]
  case isFalse h => simp [h]

theorem mem_transitFrom {k n : Nat} {before ps : List Publication} :
    k ∈ transitFrom before n ps ↔ ∃ earlier p later, ps = earlier ++ p :: later ∧ k = n + earlier.length ∧
      (∀ q ∈ before, p.waitsFor q = false) ∧ ∀ q ∈ earlier, p.waitsFor q = false := by
  induction ps generalizing before n with
  | nil => simp [transitFrom]
  | cons x ps ih =>
    rw [mem_transitFrom_cons, ih]
    constructor
    · rintro (⟨rfl, hbefore⟩ | ⟨earlier, p, later, rfl, rfl, hbefore, hearlier⟩)
      · exact ⟨[], x, ps, rfl, rfl, hbefore, List.forall_mem_nil _⟩
      · obtain ⟨hx, hbefore⟩ := List.forall_mem_cons.mp hbefore
        exact ⟨x :: earlier, p, later, rfl, by rw [List.length_cons]; omega, hbefore,
          List.forall_mem_cons.mpr ⟨hx, hearlier⟩⟩
    · rintro ⟨_ | ⟨y, earlier⟩, p, later, hsplit, rfl, hbefore, hearlier⟩
      · obtain ⟨rfl, rfl⟩ := List.cons_eq_cons.mp hsplit
        exact .inl ⟨rfl, hbefore⟩
      · obtain ⟨rfl, rfl⟩ := List.cons_eq_cons.mp hsplit
        obtain ⟨hx, hearlier⟩ := List.forall_mem_cons.mp hearlier
        exact .inr ⟨earlier, p, later, rfl, by rw [List.length_cons]; omega, List.forall_mem_cons.mpr ⟨hx, hbefore⟩, hearlier⟩

theorem mem_inTransit {k : Nat} {x : Path} : k ∈ x.inTransit ↔ ∃ earlier p later,
    x.publications = earlier ++ p :: later ∧ k = earlier.length ∧ ∀ q ∈ earlier, p.waitsFor q = false := by
  rw [Path.inTransit, mem_transitFrom]
  simp

theorem mem_transiting {p : Publication} {x : Path} : p ∈ x.transiting ↔ ∃ earlier later,
    x.publications = earlier ++ p :: later ∧ ∀ q ∈ earlier, p.waitsFor q = false := by
  rw [Path.transiting, List.mem_filterMap]
  constructor
  · rintro ⟨k, hk, hp⟩
    obtain ⟨earlier, q, later, hsplit, rfl, hfree⟩ := mem_inTransit.mp hk
    rw [hsplit, List.getElem?_append_right (Nat.le_refl _), Nat.sub_self, List.getElem?_cons_zero] at hp
    obtain rfl := Option.some.inj hp
    exact ⟨earlier, later, hsplit, hfree⟩
  · rintro ⟨earlier, later, hsplit, hfree⟩
    refine ⟨earlier.length, mem_inTransit.mpr ⟨earlier, p, later, hsplit, rfl, hfree⟩, ?_⟩
    rw [hsplit, List.getElem?_append_right (Nat.le_refl _), Nat.sub_self, List.getElem?_cons_zero]

/-- Splitting a list at a place. -/
theorem exists_split_iff {α : Type} {xs : List α} {x : α} {P : α → Prop} :
    (∃ earlier later, xs = earlier ++ x :: later ∧ ∀ y ∈ earlier, P y) ↔
      ∃ k : Nat, xs[k]? = some x ∧ ∀ (j : Nat) (y : α), j < k → xs[j]? = some y → P y := by
  constructor
  · rintro ⟨earlier, later, rfl, h⟩
    refine ⟨earlier.length, by simp, fun j y hj hy => h y ?_⟩
    rw [List.getElem?_append_left hj] at hy
    exact List.mem_of_getElem? hy
  · rintro ⟨k, hx, h⟩
    obtain ⟨hk, rfl⟩ := List.getElem?_eq_some_iff.mp hx
    refine ⟨xs.take k, xs.drop (k + 1), ?_, fun y hy => ?_⟩
    · rw [← List.drop_eq_getElem_cons hk, List.take_append_drop]
    · obtain ⟨j, hj, rfl⟩ := List.mem_take_iff_getElem.mp hy
      exact h j _ (by omega) (List.getElem?_eq_getElem _)

theorem mem_longRecords {x : Record} : x ∈ longRecords ↔ 0 < x.bodyBlocks := by
  cases x <;> simp [longRecords, Record.bodyBlocks]

theorem longRecords_offset_nodup : (longRecords.map Record.offset).Nodup := by decide +kernel

/-- R156: the record of more than one block whose header block holds an offset is the one that starts there. -/
theorem headerRecord_eq_some_iff {o : Nat} {x : Record} :
    headerRecord o = some x ↔ 0 < x.bodyBlocks ∧ x.offset = o / 64 * 64 := by
  rw [← mem_longRecords]
  constructor
  · intro h
    exact ⟨List.mem_of_find?_eq_some h, of_decide_eq_true (List.find?_some (p := fun y : Record => decide (y.offset = o / 64 * 64)) h)⟩
  · rintro ⟨hmem, hoffset⟩
    obtain ⟨y, hy⟩ : ∃ y, headerRecord o = some y := Option.isSome_iff_exists.mp
      (List.find?_isSome.mpr ⟨x, hmem, decide_eq_true hoffset⟩)
    have hsame : y = x := List.inj_on_of_nodup_map longRecords_offset_nodup (List.mem_of_find?_eq_some hy) hmem
      ((of_decide_eq_true (List.find?_some (p := fun y : Record => decide (y.offset = o / 64 * 64)) hy)).trans hoffset.symm)
    rw [hy, hsame]

theorem readsHeader_eq_some_iff {x : Record} : s.readsHeader r = some x ↔
    ∃ o al, s.offsetOf r.addr = some (o, al) ∧ 0 < x.bodyBlocks ∧ x.offset = o / 64 * 64 := by
  unfold State.readsHeader
  split
  case h_1 hnone => simp [hnone]
  case h_2 o al hoffset => simp [hoffset, headerRecord_eq_some_iff]

/-- R156: a read is held for a publication in transit of the record whose header block it asks for. -/
theorem holdsRead_iff : s.holdsRead r = true ↔
    ∃ x p, s.readsHeader r = some x ∧ p ∈ s.path.transiting ∧ x ∈ p.target.records := by
  unfold State.holdsRead
  split
  case h_1 hnone => simp [hnone]
  case h_2 x hx => simp [hx]

/-! ### The answer to a read and its acceptance (R148, R154, R156) -/

theorem handCovered_error (r : BusRead) (data : List Byte) : s.handCovered r false data = s := by
  unfold State.handCovered
  split <;> rfl

theorem upstreamRead_of_not_due {good : Bool} {data : List Byte}
    (hundue : r ∉ s.path.openReads ∨ good = true ∧ s.inTurn r = false) :
    s.upstreamRead (.answer r good data) = s := by
  have hnot : ¬(r ∈ s.path.openReads ∧ (good = true → s.inTurn r = true)) := by
    rintro ⟨hopen, hturn⟩
    rcases hundue with hshut | ⟨hgood, hout⟩
    · exact hshut hopen
    · exact Bool.noConfusion (hout.symm.trans (hturn hgood))
  rw [State.upstreamRead, State.answerRead, if_neg hnot, ite_self]

theorem upstreamRead_accept (hreleased : s.resetLow = false) : s.upstreamRead (.accept r) = s.acceptRead r :=
  if_neg (by rw [hreleased]; exact Bool.noConfusion)

theorem acceptRead_of_holdsRead (h : s.holdsRead r = true) :
    s.acceptRead r = s.setPath { s.path with heldReads := s.path.heldReads ++ [r] } := if_pos h

theorem readHeld_only : OnlyChanges [.heldReads, .event, .ports] s
    (s.beginEvent.setPath { s.beginEvent.path with heldReads := s.beginEvent.path.heldReads ++ [r] }) := by
  intro f hf
  cases f <;> first | rfl | (simp at hf)

theorem acceptRead_of_not_holdsRead (h : s.holdsRead r = false) : s.acceptRead r = s.forwardRead r :=
  if_neg (by rw [h]; exact Bool.noConfusion)

end Sys2Proof.Machine

namespace Sys2Proof.Proofs
open Sys2Proof.Machine

theorem exec_readRow {s : State} {e : ReadEvent} {c : Instr} (h : c ∈ readRows e) :
    exec c s = .next (s.beginEvent.upstreamRead e) := by
  simp only [readRows, List.mem_cons, List.not_mem_nil, or_false] at h
  rcases h with rfl | rfl | rfl | rfl <;> rfl

/-- Settles O48: each of the functions that decide about a read is read off its definition, the
publications in transit as those that wait for none before them. -/
theorem readsPassed : Obligations.ReadsPassed := by
  refine ⟨fun s r good data c hc hreleased => ⟨fun hopen hturn => ?_, fun hundue => ?_⟩, coveredHeaders_spec,
    fun _ _ => consumingRecord_eq_some_iff, fun s r => ⟨consumes_iff, inTurn_eq_false_iff, ?_⟩,
    fun s r c hc hreleased => ?_⟩
  · refine ⟨s.beginEvent.readAnswered r good data, (s.beginEvent.readAnswered r good data).handCovered r good data, ?_,
      rfl, rfl, readAnswered_only r good data, ?_, ?_⟩
    · rw [exec_readRow hc, upstreamRead_of_due (s := s.beginEvent) hreleased hopen hturn]
    · rintro (rfl | hconsumes)
      · exact handCovered_error r data
      · exact handCovered_of_not_consumes (s := s.beginEvent.readAnswered r good data) hconsumes good data
    · rintro o rfl hoffset
      exact handCovered_good (s := s.beginEvent.readAnswered r true data) hoffset
  · refine ⟨s.beginEvent, ?_, rfl, (beginEvent_frame (by simp)).mpr (.refl _ _)⟩
    rw [exec_readRow hc, upstreamRead_of_not_due (s := s.beginEvent) hundue]
  · rw [holdsRead_iff]
    simp only [readsHeader_eq_some_iff, mem_transiting, exists_split_iff, waitsFor_eq_false_iff]
    constructor
    · rintro ⟨x, p, ⟨o, al, hoffset, hlong, hx⟩, ⟨k, hp, hfree⟩, hmem⟩
      exact ⟨o, al, x, k, p, hoffset, hlong, hx, hp, hmem, hfree⟩
    · rintro ⟨o, al, x, k, p, hoffset, hlong, hx, hp, hmem, hfree⟩
      exact ⟨x, p, ⟨o, al, hoffset, hlong, hx⟩, ⟨k, hp, hfree⟩, hmem⟩
  · refine ⟨s.beginEvent.acceptRead r, ?_, fun hheld => ?_, fun hfree => ?_⟩
    · rw [exec_readRow hc, upstreamRead_accept (s := s.beginEvent) hreleased]
    · rw [acceptRead_of_holdsRead (s := s.beginEvent) hheld]
      exact ⟨rfl, rfl, readHeld_only⟩
    · rw [acceptRead_of_not_holdsRead (s := s.beginEvent) hfree]
      exact ⟨rfl, rfl, by simp⟩

end Sys2Proof.Proofs
end

section
/-! The answer to an injected write (R154 to R157, R160, R162, R182): what the last answer to a publication brings. -/

namespace Sys2Proof.Machine

variable {s t : State}

/-! ### Attention outputs (R182) -/

theorem answersHeld_congr {ring : Fin 2} {b : Bool} {stamp : Half} (hring : t.notices[ring] = { s.notices[ring] with attn := b })
    (hstamp : ∀ q, t.stamp q = s.stamp q) (r : Record) : t.answersHeld ring stamp r ↔ s.answersHeld ring stamp r := by
  unfold State.answersHeld
  simp only [hring, hstamp]
  rfl

/-- R182: one record's answered write raises the output of the ring that holds its notice. -/
theorem answerSlot_ring (s : State) (stamp : Half) (r : Record) (ring : Fin 2) :
    (s.answerSlot stamp r).notices[ring] = { s.notices[ring] with attn := attn (s.answerSlot stamp r) ring } ∧
      (attn (s.answerSlot stamp r) ring = true ↔ attn s ring = true ∨ s.answersHeld ring stamp r) := by
  cases r with
  | notice n slot =>
    by_cases hholds : s.notices[n].holds slot = true ∧ s.stamp (.notice n slot) = stamp
    case pos =>
      have hnotices := (answerSlot_notices s stamp n slot).trans (if_pos hholds)
      by_cases hn : n = ring
      case pos =>
        subst hn
        have hraised : (s.answerSlot stamp (.notice n slot)).notices[n] = { s.notices[n] with attn := true } := by
          rw [hnotices, get_set_self]
        have hattn : attn (s.answerSlot stamp (.notice n slot)) n = true := congrArg NoticeRing.attn hraised
        rw [hattn]
        exact ⟨hraised, iff_of_true rfl (.inr ⟨slot, rfl, hholds⟩)⟩
      case neg =>
        have hother : (s.answerSlot stamp (.notice n slot)).notices[ring] = s.notices[ring] := by
          rw [hnotices, get_set_ne hn]
        have hattn : attn (s.answerSlot stamp (.notice n slot)) ring = attn s ring := congrArg NoticeRing.attn hother
        rw [hattn, hother]
        refine ⟨rfl, (or_iff_left ?_).symm⟩
        rintro ⟨slot', hr, -⟩
        exact hn (Record.notice.inj hr).1
    case neg =>
      have hnotices := (answerSlot_notices s stamp n slot).trans (if_neg hholds)
      have hother : (s.answerSlot stamp (.notice n slot)).notices[ring] = s.notices[ring] := by rw [hnotices]
      have hattn : attn (s.answerSlot stamp (.notice n slot)) ring = attn s ring := congrArg NoticeRing.attn hother
      rw [hattn, hother]
      refine ⟨rfl, (or_iff_left ?_).symm⟩
      rintro ⟨slot', hr, hheld⟩
      obtain ⟨rfl, rfl⟩ := Record.notice.inj hr
      exact hholds hheld
  | _ =>
    refine ⟨rfl, (or_iff_left ?_).symm⟩
    rintro ⟨slot, hr, -⟩
    exact Record.noConfusion hr

theorem answerSlot_only (s : State) (stamp : Half) (r : Record) : OnlyChanges [.notices] s (s.answerSlot stamp r) :=
  (answerSlot_frame _ _ (by simp)).mpr (.refl _ _)

/-- R182: the records of one publication, answered in turn. -/
theorem forEach_answerSlot_ring (stamp : Half) (ring : Fin 2) (rs : List Record) (s : State) :
    (s.forEach rs fun u r => u.answerSlot stamp r).notices[ring] =
        { s.notices[ring] with attn := attn (s.forEach rs fun u r => u.answerSlot stamp r) ring } ∧
      (attn (s.forEach rs fun u r => u.answerSlot stamp r) ring = true ↔
        attn s ring = true ∨ ∃ r ∈ rs, s.answersHeld ring stamp r) := by
  induction rs generalizing s with
  | nil => exact ⟨rfl, by simp [State.forEach]⟩
  | cons r rs ih =>
    obtain ⟨hfirst, hattnFirst⟩ := answerSlot_ring s stamp r ring
    obtain ⟨hrest, hattnRest⟩ := ih (s.answerSlot stamp r)
    have hheld := answersHeld_congr (stamp := stamp) hfirst ((answerSlot_only s stamp r).stamp (by simp))
    refine ⟨hrest.trans (by rw [hfirst]; rfl), hattnRest.trans ?_⟩
    rw [hattnFirst, List.exists_mem_cons_iff, or_assoc]
    simp only [hheld]

/-! ### The records between two answers -/

/-- A record shows nothing of the path unit but its stamp, and of a notice ring not its attention output. -/
theorem image_congr
    (honly : OnlyChanges [.notices, .publications, .initialRest, .heldReads, .openReads, .ports, .shadow] s t)
    (hring : ∀ ring : Fin 2, t.notices[ring] = { s.notices[ring] with attn := attn t ring }) (r : Record) :
    t.image r = s.image r := by
  have hstamp := honly.stamp (by simp) r
  have hevent : t.path.event = s.path.event := honly .event (by simp)
  cases r with
  | status =>
    have hline : t.lineState = s.lineState := honly .lineState (by simp)
    have hlc : t.lc = s.lc := honly .lc (by simp)
    have hconfig : t.config = s.config := honly .config (by simp)
    have hcmd : t.cmdRing = s.cmdRing := honly .cmdRing (by simp)
    have hovr : t.ovrRing = s.ovrRing := honly .ovrRing (by simp)
    have hruns : t.runs = s.runs := honly .runs (by simp)
    have hbanks : t.banks = s.banks := honly .banks (by simp)
    have hsaws : t.sawMask = s.sawMask := honly .sawMask (by simp)
    have hnext : ∀ ring : Fin 2, t.notices[ring].next = s.notices[ring].next := fun ring => by rw [hring]
    have hheld : ∀ ring : Fin 2, t.notices[ring].held = s.notices[ring].held := fun ring => by rw [hring]
    have hlost : ∀ ring : Fin 2, t.notices[ring].lost = s.notices[ring].lost := fun ring => by rw [hring]
    simp only [State.image, statusImage, State.windowW, State.commitC, State.sortS, hstamp, hevent, hline, hlc, hconfig,
      hcmd, hovr, hruns, hbanks, hsaws, hnext, hheld, hlost]
  | head h =>
    have hheads : t.heads = s.heads := honly .heads (by simp)
    simp only [State.image, hstamp, hevent, hheads]
  | board i =>
    have hboards : t.boards = s.boards := honly .boards (by simp)
    have hsolver : t.solver = s.solver := honly .solver (by simp)
    simp only [State.image, State.creditHeld, hstamp, hboards, hsolver]
  | trim i =>
    have htrim : t.trimRing = s.trimRing := honly .trimRing (by simp)
    simp only [State.image, hstamp, htrim]
  | sort i =>
    have hsort : t.sortRing = s.sortRing := honly .sortRing (by simp)
    simp only [State.image, hstamp, hsort]
  | run i =>
    have hruns : t.runs = s.runs := honly .runs (by simp)
    simp only [State.image, hstamp, hruns]
  | bin n =>
    have hbins : t.bins = s.bins := honly .bins (by simp)
    simp only [State.image, hstamp, hbins]
  | notice ring slot =>
    have hslots : t.notices[ring].slots = s.notices[ring].slots := by rw [hring]
    simp only [State.image, hstamp, hslots]
  | stats =>
    have hstats : t.stats = s.stats := honly .stats (by simp)
    simp only [State.image, hstamp, hstats]
  | log i =>
    have hlog : t.logUnit = s.logUnit := honly .logUnit (by simp)
    simp only [State.image, hstamp, hlog]

/-- R162: so a unit of the initial publication is written with the same content. -/
theorem unitWrites_congr
    (honly : OnlyChanges [.notices, .publications, .initialRest, .heldReads, .openReads, .ports, .shadow] s t)
    (hring : ∀ ring : Fin 2, t.notices[ring] = { s.notices[ring] with attn := attn t ring }) (u : InitUnit) :
    t.unitWrites u = s.unitWrites u := by
  rw [State.unitWrites, State.unitWrites, List.map_congr_left fun r _ => image_congr honly hring r]

/-! ### Answers that waited (R154, R160) -/

theorem inTransit_pairwise (x : Path) : x.inTransit.Pairwise (fun j k => j < k) := by
  have hfrom : ∀ (ps before : List Publication) (n : Nat), (transitFrom before n ps).Pairwise (fun j k => j < k) := by
    intro ps
    induction ps with
    | nil => exact fun _ _ => .nil
    | cons p ps ih =>
      intro before n
      rw [transitFrom]
      split
      · exact ih _ _
      · refine List.pairwise_cons.mpr ⟨fun k hk => ?_, ih _ _⟩
        obtain ⟨earlier, q, later, -, rfl, -, -⟩ := mem_transitFrom.mp hk
        omega
  exact hfrom _ _ _

/-- R155: of two publications in transit, none writes the entry that the other writes. -/
theorem transiting_targets (x : Path) : x.transiting.Pairwise (fun p q => p.target ≠ q.target) := by
  rw [Path.transiting, List.pairwise_filterMap]
  refine (inTransit_pairwise x).imp_of_mem fun {j k} _ hk hlt p hp q hq => ?_
  obtain ⟨earlier, q', later, hsplit, rfl, hfree⟩ := mem_inTransit.mp hk
  rw [hsplit] at hp hq
  rw [List.getElem?_append_left hlt] at hp
  rw [List.getElem?_append_right (Nat.le_refl _), Nat.sub_self, List.getElem?_cons_zero] at hq
  obtain rfl := Option.some.inj hq
  exact (waitsFor_eq_false_iff.mp (hfree p (List.mem_of_getElem? hp))).1

/-- The answer bytes of two entries stand apart (chapter 12.5). -/
theorem answerOffset_apart {x y : PubTarget} {a b : Nat} (hx : x.answerOffset = some a) (hy : y.answerOffset = some b)
    (hne : x ≠ y) : b + 8 ≤ a ∨ a + 8 ≤ b := by
  cases x <;> cases y <;> simp only [PubTarget.answerOffset, Option.some.injEq, reduceCtorEq] at hx hy
  case commandAnswer.commandAnswer i j =>
    have hij : i.val ≠ j.val := fun h => hne (by rw [Fin.ext h])
    simp only [commandOffset] at hx hy
    omega
  case commandAnswer.overrideAnswer i j =>
    simp only [commandOffset, overrideOffset] at hx hy
    omega
  case overrideAnswer.commandAnswer i j =>
    simp only [commandOffset, overrideOffset] at hx hy
    omega
  case overrideAnswer.overrideAnswer i j =>
    have hij : i.val ≠ j.val := fun h => hne (by rw [Fin.ext h])
    simp only [overrideOffset] at hx hy
    omega

theorem copyAnswer_of_some {q : Publication} {a : Nat} {x : InjectedWrite} {more : List InjectedWrite}
    (ha : q.target.answerOffset = some a) (hx : q.writes = x :: more) :
    s.copyAnswer q = s.setShadow (writeBytes s.shadow (placedAt a (x.bytes.take 8))) := by
  simp only [State.copyAnswer, ha, hx]

theorem copyAnswer_wf (q : Publication) (h : s.ShadowCanonical) : (s.copyAnswer q).ShadowCanonical := by
  unfold State.copyAnswer
  split
  · exact writeBytes_wf h
  · exact h

/-- R160: an answer changes the 8 bytes of its entry alone. -/
theorem readByte_copyAnswer_outside {q : Publication} {b : Nat}
    (h : ∀ a, q.target.answerOffset = some a → b < a ∨ a + 8 ≤ b) :
    readByte (s.copyAnswer q).shadow b = readByte s.shadow b := by
  unfold State.copyAnswer
  split
  case h_1 a x more ha _ =>
    refine readByte_place_outside fun ⟨hle, hlt⟩ => ?_
    rw [List.length_take] at hlt
    have := h a ha
    omega
  case h_2 => rfl

theorem readByte_forEach_copyAnswer_outside {qs : List Publication} {b : Nat}
    (h : ∀ q ∈ qs, ∀ a, q.target.answerOffset = some a → b < a ∨ a + 8 ≤ b) :
    readByte (s.forEach qs State.copyAnswer).shadow b = readByte s.shadow b := by
  induction qs generalizing s with
  | nil => rfl
  | cons q qs ih =>
    obtain ⟨hq, hqs⟩ := List.forall_mem_cons.mp h
    exact (ih hqs).trans (readByte_copyAnswer_outside hq)

/-- R154, R160: each answer issued then stands in the shadow. -/
theorem readBytes_forEach_copyAnswer {qs : List Publication} {q : Publication} {a : Nat} {x : InjectedWrite}
    {more : List InjectedWrite} (hs : s.ShadowCanonical) (hapart : qs.Pairwise (fun p q => p.target ≠ q.target))
    (hq : q ∈ qs) (ha : q.target.answerOffset = some a) (hx : q.writes = x :: more) (hlength : x.bytes.length = 8) :
    readBytes (s.forEach qs State.copyAnswer).shadow a 8 = x.bytes := by
  induction qs generalizing s with
  | nil => exact absurd hq List.not_mem_nil
  | cons p qs ih =>
    obtain ⟨hp, hqs⟩ := List.pairwise_cons.mp hapart
    rcases List.mem_cons.mp hq with rfl | hlater
    · have hkept : readBytes ((s.copyAnswer q).forEach qs State.copyAnswer).shadow a 8 =
          readBytes (s.copyAnswer q).shadow a 8 := by
        refine readBytes_congr fun k hk => readByte_forEach_copyAnswer_outside fun q' hq' b hb => ?_
        have := answerOffset_apart ha hb (hp q' hq')
        omega
      refine hkept.trans ?_
      rw [copyAnswer_of_some ha hx, List.take_of_length_le (Nat.le_of_eq hlength)]
      calc readBytes (writeBytes s.shadow (placedAt a x.bytes)) a 8
          = readBytes (writeBytes s.shadow (placedAt a x.bytes)) a x.bytes.length := by rw [hlength]
        _ = x.bytes := readBytes_place hs
    · exact ih (copyAnswer_wf p hs) hqs hlater

/-! ### The last answer to a publication (R155, R156, R162) -/

theorem forEach_answerSlot_path (stamp : Half) (rs : List Record) (s : State) :
    (s.forEach rs fun u r => u.answerSlot stamp r).path = s.path := by
  induction rs generalizing s with
  | nil => rfl
  | cons r rs ih =>
    refine (ih (s.answerSlot stamp r)).trans ?_
    unfold State.answerSlot
    split
    · split <;> rfl
    · rfl

theorem forEach_copyAnswer_path (qs : List Publication) (s : State) : (s.forEach qs State.copyAnswer).path = s.path := by
  induction qs generalizing s with
  | nil => rfl
  | cons q qs ih =>
    refine (ih (s.copyAnswer q)).trans ?_
    unfold State.copyAnswer
    split <;> rfl

/-- The state after the last answer to the publication in place k, but for an initial publication's next unit. -/
def State.finished (s : State) (k : Nat) (p : Publication) : State :=
  ((s.setPath { s.path with publications := s.path.publications.eraseIdx k }).retire p).issueAnswers p

theorem finishPublication_eq (s : State) (k : Nat) (p : Publication) :
    s.finishPublication k p = (s.finished k p).afterInitial p.target := rfl

theorem finished_path (s : State) (k : Nat) (p : Publication) :
    (s.finished k p).path =
      { s.path with
        publications := s.path.publications.eraseIdx k
        heldReads := s.path.heldReads.filter fun r => !s.readWaits p r
        openReads := s.path.openReads ++ s.path.heldReads.filter (s.readWaits p)
        ports := s.path.ports ++ (s.path.heldReads.filter (s.readWaits p)).map fun r =>
          .forwardRead (s.memoryAddress r.addr) r.enables } := by
  unfold State.finished State.issueAnswers State.retire
  rw [forEach_copyAnswer_path, forEach_answerSlot_path, releaseReads_path]
  rfl

theorem finished_only (s : State) (k : Nat) (p : Publication) :
    OnlyChanges [.publications, .heldReads, .openReads, .notices, .shadow, .ports] s (s.finished k p) := by
  unfold State.finished
  refine (issueAnswers_frame _ (by simp)).mpr ((retire_frame _ (by simp)).mpr ?_)
  intro f hf
  cases f <;> first | rfl | (simp at hf)

theorem finished_ring (s : State) (k : Nat) (p : Publication) (ring : Fin 2) :
    (s.finished k p).notices[ring] = { s.notices[ring] with attn := attn (s.finished k p) ring } ∧
      (attn (s.finished k p) ring = true ↔ attn s ring = true ∨ ∃ r ∈ p.target.records, s.answersHeld ring p.stamp r) := by
  have hnotices : (s.finished k p).notices =
      ((s.setPath { s.path with publications := s.path.publications.eraseIdx k }).retire p).notices :=
    ((issueAnswers_frame p (by simp)).mpr (.refl [.shadow] _)) .notices (by simp)
  let u := (s.setPath { s.path with publications := s.path.publications.eraseIdx k }).releaseReads p.target.records
  have honly : OnlyChanges [.publications, .heldReads, .openReads, .ports] s u :=
    (releaseReads_frame _ (by simp)).mpr fun f hf => by cases f <;> first | rfl | (simp at hf)
  have hsame : u.notices = s.notices := honly .notices (by simp)
  have hring : u.notices[ring] = { s.notices[ring] with attn := attn s ring } := by rw [hsame]; rfl
  have hattn : attn u ring = attn s ring := congrArg NoticeRing.attn hring
  obtain ⟨hanswered, hraised⟩ := forEach_answerSlot_ring p.stamp ring p.target.records u
  have hlevel : attn (s.finished k p) ring = attn (u.forEach p.target.records fun v r => v.answerSlot p.stamp r) ring := by
    rw [attn, hnotices]
    rfl
  rw [hlevel, hnotices, hraised, hattn]
  refine ⟨hanswered.trans (by rw [hsame]), ?_⟩
  simp only [answersHeld_congr hring (honly.stamp (by simp))]

/-- R160: the shadow after the answers issued. -/
theorem finished_shadow (s : State) (k : Nat) (p : Publication) :
    (s.ShadowCanonical → ∀ q a y more, q ∈ (s.finished k p).path.transiting → q.waitsFor p = true →
      q.target.answerOffset = some a → q.writes = y :: more → y.bytes.length = 8 →
      readBytes (s.finished k p).shadow a 8 = y.bytes) ∧
    ∀ b : Nat, (∀ q a, q ∈ (s.finished k p).path.transiting → q.waitsFor p = true → q.target.answerOffset = some a →
      b < a ∨ a + 8 ≤ b) → readByte (s.finished k p).shadow b = readByte s.shadow b := by
  let u := (s.setPath { s.path with publications := s.path.publications.eraseIdx k }).retire p
  have hshadow : u.shadow = s.shadow :=
    (retire_frame (T := [.notices, .heldReads, .openReads, .ports]) p (by simp)).mpr (.refl _ _) .shadow (by simp)
  have hpath : (s.finished k p).path = u.path := forEach_copyAnswer_path _ u
  rw [hpath]
  constructor
  · intro hs q a y more hq hwaits ha hy hlength
    exact readBytes_forEach_copyAnswer (s := u) (by rw [State.ShadowCanonical, hshadow]; exact hs)
      ((transiting_targets u.path).filter _) (List.mem_filter.mpr ⟨hq, hwaits⟩) ha hy hlength
  · intro b hb
    refine (readByte_forEach_copyAnswer_outside (s := u) fun q hq a ha => ?_).trans (by rw [hshadow])
    obtain ⟨hin, hwaits⟩ := List.mem_filter.mp hq
    exact hb q a hin hwaits ha

theorem afterInitial_of_not_isInitial {p : Publication} (h : isInitial p = false) : s.afterInitial p.target = s := by
  obtain ⟨target, owner, event, stamp, writes⟩ := p
  cases target with
  | initial u => exact Bool.noConfusion h
  | _ => rfl

theorem afterInitial_of_isInitial {p : Publication} (h : isInitial p = true) : s.afterInitial p.target = s.continueInit := by
  obtain ⟨target, owner, event, stamp, writes⟩ := p
  cases target with
  | initial u => rfl
  | _ => exact Bool.noConfusion h

theorem continueInit_cons {v : InitUnit} {vs : List InitUnit} (h : s.path.initialRest = v :: vs) :
    s.continueInit = s.beginUnit v vs := by
  unfold State.continueInit
  rw [h]

theorem continueInit_nil (h : s.path.initialRest = []) : s.continueInit = s.endInit := by
  unfold State.continueInit
  rw [h]

theorem takePending_none {ring : Ring} (h : (s.counts ring).pendingCount = none) : s.takePending ring = s := by
  unfold State.takePending
  rw [h]

theorem answerWrite_cons {k : Nat} {p : Publication} {x y : InjectedWrite} {rest : List InjectedWrite}
    (h : p.writes = x :: y :: rest) : s.answerWrite k p =
      s.setPath { s.path with publications := s.path.publications.set k { p with writes := y :: rest } } := by
  unfold State.answerWrite
  rw [h]

theorem answerWrite_singleton {k : Nat} {p : Publication} {x : InjectedWrite} (h : p.writes = [x]) :
    s.answerWrite k p = s.finishPublication k p := by
  unfold State.answerWrite
  rw [h]

/-- R162, R164: the end of INIT where no count pends. -/
theorem endInit_of_none (hnone : ∀ ring, (s.counts ring).pendingCount = none) :
    s.endInit = ((s.setLineState .idle).publish .lugTracker .status).publish .tally .stats := by
  have hidle : ∀ ring, ((((s.setLineState .idle).publish .lugTracker .status).publish .tally .stats).counts
      ring).pendingCount = none := by
    intro ring
    rw [publish_counts, publish_counts]
    exact hnone ring
  unfold State.endInit
  rw [takePending_none (hidle .override), takePending_none (hidle .command)]

/-- R1: where no count pends, the end of INIT leaves the line in IDLE, with its two records republished. -/
theorem endInit_spec (hrest : s.path.initialRest = []) (hnone : ∀ ring, (s.counts ring).pendingCount = none) :
    s.endInit.lineState = .idle ∧ Republishes [.status, .stats] s s.endInit := by
  rw [endInit_of_none hnone]
  have hunit : ∀ r : Record, r.initUnit ∉ s.path.initialRest := fun r => by rw [hrest]; exact List.not_mem_nil
  have hfirst : ((s.setLineState .idle).publish .lugTracker .status).path.initialRest = s.path.initialRest :=
    publish_initialRest _ _ _
  refine ⟨(publish_lineState _ _ _).trans (publish_lineState _ _ _), fun q => ?_⟩
  rw [stamp_publish, stamp_publish, hfirst]
  have hset : (s.setLineState .idle).stamp q = s.stamp q := rfl
  by_cases hstatus : q = .status
  · subst hstatus
    rw [if_neg fun h => Record.noConfusion h.1, if_pos ⟨rfl, hunit _⟩, if_pos (by simp), hset]
  · by_cases hstats : q = .stats
    · subst hstats
      rw [if_pos ⟨rfl, hunit _⟩, if_neg fun h => Record.noConfusion h.1, if_pos (by simp), hset]
    · rw [if_neg fun h => hstats h.1, if_neg fun h => hstatus h.1, if_neg (by simp [hstatus, hstats]), hset]

theorem injectedAnswer_of_some {index k : Nat} {p : Publication} (hk : s.path.inTransit[index]? = some k)
    (hp : s.path.publications[k]? = some p) : s.injectedAnswer index = s.answerWrite k p := by
  simp only [State.injectedAnswer, hk, hp]

/-- What the next unit of the initial publication, or the end of INIT, may change (R162, R164). -/
def initialTraces : List Field :=
  [.lineState, .config, .lugLine, .boards, .heads, .solver, .held, .bins, .logUnit, .runs, .stats, .cmdRing, .ovrRing,
    .banks, .sawMask, .routes, .notices, .stamps, .publications, .initialRest, .shadow]

/-- R156: the reads held for the publication answered last are forwarded, also where INIT goes on or ends. -/
theorem finishPublication_reads (s : State) (k : Nat) (p : Publication) :
    (s.finishPublication k p).path.heldReads = s.path.heldReads.filter (fun r => !s.readWaits p r) ∧
    (s.finishPublication k p).path.openReads = s.path.openReads ++ s.path.heldReads.filter (s.readWaits p) ∧
    (s.finishPublication k p).path.ports =
      s.path.ports ++ (s.path.heldReads.filter (s.readWaits p)).map fun r =>
        .forwardRead (s.memoryAddress r.addr) r.enables := by
  have hpath := finished_path s k p
  have honly : OnlyChanges initialTraces (s.finished k p) (s.finishPublication k p) := by
    rw [finishPublication_eq]
    exact (afterInitial_frame _ (fun _ h => h)).mpr (.refl _ _)
  refine ⟨Eq.trans (honly .heldReads (by simp [initialTraces])) (by rw [hpath]),
    Eq.trans (honly .openReads (by simp [initialTraces])) (by rw [hpath]),
    Eq.trans (honly .ports (by simp [initialTraces])) (by rw [hpath])⟩

/-- R162: the next unit is written with the content its owners hold then. -/
theorem beginUnit_publications (s : State) (v : InitUnit) (vs : List InitUnit) :
    (s.beginUnit v vs).path.publications = s.path.publications ++ [⟨.initial v, .path, s.path.event, 0, s.unitWrites v⟩] := by
  rfl

end Sys2Proof.Machine

namespace Sys2Proof.Proofs
open Sys2Proof.Machine

/-- Settles O53: the publication goes on with its next write, or is finished; the notices, the shadow and the reads after
its last answer are those of `State.finished`, and an initial publication's next unit or the end of INIT follows. -/
theorem injectedWriteAnswered : Obligations.InjectedWriteAnswered := by
  intro s index k good p x rest hk hp hwrites issued
  have hanswer : exec (.injectedWriteAnswer index good) s = .next (s.beginEvent.answerWrite k p) :=
    congrArg Host.Outcome.next (injectedAnswer_of_some (s := s.beginEvent) hk hp)
  refine ⟨_, hanswer, fun hmore => ?_, fun hlast => ?_, fun hlast hgoes ring => ?_, fun hlast hinitial => ?_,
    fun hlast hinitial v vs hrest => ?_, fun hlast hinitial hrest hnone => ?_⟩
  · obtain ⟨y, rest, rfl⟩ := List.exists_cons_of_ne_nil hmore
    rw [answerWrite_cons hwrites]
    exact ⟨rfl, fun f hf => by cases f <;> first | rfl | (simp at hf)⟩
  all_goals
    subst hlast
    rw [answerWrite_singleton hwrites]
  · exact finishPublication_reads s.beginEvent k p
  · have hnotices : (s.beginEvent.finishPublication k p).notices = (s.beginEvent.finished k p).notices := by
      rw [finishPublication_eq]
      cases hinitial : isInitial p with
      | false => rw [afterInitial_of_not_isInitial hinitial]
      | true =>
        have hne := hgoes.resolve_left (by rw [hinitial]; exact Bool.noConfusion)
        obtain ⟨v, vs, hrest⟩ := List.exists_cons_of_ne_nil hne
        have hunits : (s.beginEvent.finished k p).path.initialRest = v :: vs := by rw [finished_path]; exact hrest
        rw [afterInitial_of_isInitial hinitial, continueInit_cons hunits]
        rfl
    have hlevel : attn (s.beginEvent.finishPublication k p) ring = attn (s.beginEvent.finished k p) ring := by
      rw [attn, hnotices]
      rfl
    rw [hlevel, hnotices]
    exact finished_ring s.beginEvent k p ring
  · rw [finishPublication_eq, afterInitial_of_not_isInitial hinitial]
    obtain ⟨hinside, houtside⟩ := finished_shadow s.beginEvent k p
    refine ⟨by rw [finished_path]; rfl, fun hs q a y more hq => hinside hs q a y more hq.1 hq.2,
      fun b hb => houtside b fun q a hin hwaits => hb q a ⟨hin, hwaits⟩, ?_⟩
    exact ((beginEvent_frame (by simp)).mpr (.refl _ s)).trans ((finished_only s.beginEvent k p).mono (by simp))
  · have hunits : (s.beginEvent.finished k p).path.initialRest = v :: vs := by rw [finished_path]; exact hrest
    rw [finishPublication_eq, afterInitial_of_isInitial hinitial, continueInit_cons hunits]
    have hwritten : (s.beginEvent.finished k p).unitWrites v = s.beginEvent.unitWrites v :=
      unitWrites_congr ((finished_only s.beginEvent k p).mono (by simp))
        (fun ring => (finished_ring s.beginEvent k p ring).1) v
    refine ⟨rfl, ?_, finished_only s.beginEvent k p .lineState (by simp)⟩
    rw [beginUnit_publications, hwritten, finished_path]
    rfl
  · have hunits : (s.beginEvent.finished k p).path.initialRest = [] := by rw [finished_path]; exact hrest
    rw [finishPublication_eq, afterInitial_of_isInitial hinitial, continueInit_nil hunits]
    have honly := finished_only s.beginEvent k p
    obtain ⟨hidle, hstamps⟩ := endInit_spec hunits fun ring => by
      rw [counts_of_only honly (by cases ring <;> simp [Ring.field])]
      exact hnone ring
    refine ⟨hidle, fun r => (hstamps r).trans ?_⟩
    rw [honly.stamp (by simp)]
    rfl

end Sys2Proof.Proofs
end

section
/-! The end of the line: DRAIN_LINE (R4, R5) and STOP_LINE (R6, R17, R91, R175). -/

namespace Sys2Proof.Machine

variable {s : State} {x : CommandEntry}

@[simp] theorem offered_boards (s : State) (x : CommandEntry) : (s.offered x).boards = s.boards :=
  offered_only s x .boards (by simp)

@[simp] theorem offered_logUnit (s : State) (x : CommandEntry) : (s.offered x).logUnit = s.logUnit :=
  offered_only s x .logUnit (by simp)

theorem offered_anyInUse (s : State) (x : CommandEntry) : (s.offered x).anyInUse = s.anyInUse := by
  rw [State.anyInUse, State.anyInUse, offered_boards]

theorem offered_forEach_raise_notices (s : State) (x : CommandEntry) (ns : List Notice) :
    ((s.offered x).forEach ns State.raise).notices = (s.forEach ns State.raise).notices :=
  forEach_raise_notices_congr (offered_notices s x) (offered_routes s x) ns

/-! ### DRAIN_LINE -/

/-- The line as it enters DRAIN (R4). -/
def State.draining (s : State) : State := (s.setLineState .drain).publish .lugTracker .status

theorem draining_only : OnlyChanges [.lineState, .stamps, .publications] s s.draining :=
  (publish_frame _ _ (by simp)).mpr ((setLineState_frame _ (by simp)).mpr (.refl _ _))

theorem draining_drained : s.draining.drained ↔ s.anyInUse = false ∧ s.logUnit.openLog = none := by
  have hline : s.draining.lineState = .drain := publish_lineState _ _ _
  have hboards : s.draining.boards = s.boards := draining_only .boards (by simp)
  have hlog : s.draining.logUnit = s.logUnit := draining_only .logUnit (by simp)
  rw [State.drained, State.anyInUse, hline, hboards, hlog]
  exact and_iff_right rfl

theorem drainLine_of_run (h : s.lineState = .run) : s.drainLine = (s.draining.drainIfDone, plainAnswer .ok) :=
  if_neg (not_not_intro h)

/-! ### The boards that a stop loses (R17) -/

/-- A run after a board of it is lost or sorted: FINISHING and with none left, it is CLOSED (R60). -/
def RunSlot.settled (x : RunSlot) : RunSlot := if x.closes = true then { x with state := .closed } else x

/-- A run after n of its boards are lost. -/
def RunSlot.loseMany (x : RunSlot) (n : Nat) : RunSlot :=
  { x with
    inLine := x.inLine - n
    tally := { x.tally with lost := satAdd x.tally.lost n }
    state := if x.state = .finishing ∧ 0 < n ∧ x.inLine ≤ n then .closed else x.state }

theorem RunSlot.closes_iff {x : RunSlot} : x.closes = true ↔ x.state = .finishing ∧ x.inLine = 0 := by
  simp [RunSlot.closes]

theorem loseMany_zero (x : RunSlot) : x.loseMany 0 = x := by
  simp [RunSlot.loseMany, satAdd_zero]

theorem addLost_settled (x : RunSlot) : x.addLost.settled = x.loseMany 1 := by
  have hcloses : x.addLost.closes = true ↔ x.state = .finishing ∧ 0 < 1 ∧ x.inLine ≤ 1 := by
    rw [RunSlot.closes_iff, RunSlot.addLost]
    exact and_congr Iff.rfl (by simp only; omega)
  unfold RunSlot.settled RunSlot.loseMany
  by_cases h : x.addLost.closes = true
  · rw [if_pos h, if_pos (hcloses.mp h)]
    rfl
  · rw [if_neg h, if_neg (hcloses.not.mp h)]
    rfl

theorem loseMany_loseMany (x : RunSlot) (m n : Nat) : (x.loseMany m).loseMany n = x.loseMany (m + n) := by
  have hstate : (if (if x.state = .finishing ∧ 0 < m ∧ x.inLine ≤ m then RunState.closed else x.state) = .finishing ∧
        0 < n ∧ x.inLine - m ≤ n then RunState.closed
      else if x.state = .finishing ∧ 0 < m ∧ x.inLine ≤ m then RunState.closed else x.state) =
      if x.state = .finishing ∧ 0 < m + n ∧ x.inLine ≤ m + n then RunState.closed else x.state := by
    by_cases hfirst : x.state = .finishing ∧ 0 < m ∧ x.inLine ≤ m
    · rw [if_pos hfirst, if_neg fun h => RunState.noConfusion h.1, if_pos ⟨hfirst.1, by omega, by omega⟩]
    · rw [if_neg hfirst]
      by_cases hstate : x.state = .finishing
      · have : (0 < n ∧ x.inLine - m ≤ n) ↔ 0 < m + n ∧ x.inLine ≤ m + n := by
          have hnot : ¬(0 < m ∧ x.inLine ≤ m) := fun h => hfirst ⟨hstate, h⟩
          omega
        simp only [this]
      · rw [if_neg fun h => hstate h.1, if_neg fun h => hstate h.1]
  unfold RunSlot.loseMany
  simp only [hstate, satAdd_satAdd, Nat.sub_sub]

theorem loseMany_state_free {x : RunSlot} {n : Nat} : (x.loseMany n).state = .free ↔ x.state = .free := by
  unfold RunSlot.loseMany
  simp only
  split
  case isTrue h => simp [h.1]
  case isFalse => rfl

/-- The record of a lost board FREE and its request ended, before its run and its bank (R17, R91). -/
def State.freedLost (s : State) (i : Fin 64) : State :=
  ((s.dropRequest i).setBoard i { (s.dropRequest i).boards[i] with state := .free }).publish .lugTracker (.board i)

theorem freedLost_only (s : State) (i : Fin 64) :
    OnlyChanges [.boards, .solver, .stamps, .publications] s (s.freedLost i) :=
  (publish_frame _ _ (by simp)).mpr ((setBoard_frame _ _ (by simp)).mpr ((dropRequest_frame i (by simp)).mpr (.refl _ _)))

theorem freedLost_boards (s : State) (i : Fin 64) :
    (s.freedLost i).boards = s.boards.set i { s.boards[i] with state := .free, request := none } := by
  have hdropped : (s.dropRequest i).boards = s.boards.set i { s.boards[i] with request := none } := rfl
  have hpublished : (s.freedLost i).boards = _ := publish_boards _ _ _
  rw [hpublished, State.setBoard_boards, hdropped, get_set_self, Vector.set_set]

theorem loseBoard_eq (s : State) (i : Fin 64) :
    s.loseBoard i = ((s.freedLost i).leaveRun s.boards[i].run RunSlot.addLost).setRefs s.boards[i].bank
      (((s.freedLost i).leaveRun s.boards[i].run RunSlot.addLost).banks.refs s.boards[i].bank - 1) := rfl

theorem loseBoard_left (s : State) (i : Fin 64) : OnlyChanges [.banks, .stamps, .publications]
    ((s.freedLost i).leaveRun s.boards[i].run RunSlot.addLost) (s.loseBoard i) := by
  rw [loseBoard_eq]
  exact (setRefs_frame _ _ (by simp)).mpr (.refl _ _)

theorem loseBoard_boards (s : State) (i : Fin 64) :
    (s.loseBoard i).boards = s.boards.set i { s.boards[i] with state := .free, request := none } :=
  Eq.trans (loseBoard_left s i .boards (by simp))
    (Eq.trans (leaveRun_only _ _ _ .boards (by simp)) (freedLost_boards s i))

theorem loseBoard_routes (s : State) (i : Fin 64) : (s.loseBoard i).routes = s.routes :=
  Eq.trans (loseBoard_left s i .routes (by simp))
    (Eq.trans (leaveRun_only _ _ _ .routes (by simp)) (freedLost_only s i .routes (by simp)))

/-- A lost board keeps its lug, its run and its bank (R17). -/
theorem loseBoard_kept (s : State) (i j : Fin 64) :
    (s.loseBoard i).boards[j].run = s.boards[j].run ∧ (s.loseBoard i).boards[j].bank = s.boards[j].bank := by
  rw [loseBoard_boards]
  by_cases h : i = j
  · subst h
    rw [get_set_self]
    exact ⟨rfl, rfl⟩
  · rw [get_set_ne h]
    exact ⟨rfl, rfl⟩

theorem freedLost_runOf (s : State) (i : Fin 64) (n : Half) : (s.freedLost i).runOf n = s.runOf n :=
  runOf_congr (freedLost_only s i .runs (by simp)) n

/-- R60, R141: a lost board leaves its run. -/
theorem loseBoard_runs (s : State) (i : Fin 64) :
    (s.loseBoard i).runs =
      match s.runOf s.boards[i].run with
      | none => s.runs
      | some r => { s.runs with slots := s.runs.slots.set r (s.runs.slots[r].loseMany 1) } := by
  have hruns : (s.freedLost i).runs = s.runs := freedLost_only s i .runs (by simp)
  refine Eq.trans (loseBoard_left s i .runs (by simp)) ?_
  cases hrun : s.runOf s.boards[i].run with
  | none => rw [leaveRun_none _ _ _ ((freedLost_runOf s i _).trans hrun), hruns]
  | some r =>
    obtain ⟨hleft, -⟩ := leaveRun_some (s.freedLost i) _ RunSlot.addLost r ((freedLost_runOf s i _).trans hrun)
    rw [hleft, hruns]
    simp only [← addLost_settled]
    rfl

theorem loseBoard_slots (s : State) (i : Fin 64) (r : Fin 8) :
    (s.loseBoard i).runs.slots[r] =
      s.runs.slots[r].loseMany (if s.runOf s.boards[i].run = some r then 1 else 0) := by
  rw [loseBoard_runs]
  cases hrun : s.runOf s.boards[i].run with
  | none => rw [if_neg (by simp), loseMany_zero]
  | some q =>
    dsimp only
    by_cases h : q = r
    · subst h
      rw [get_set_self, if_pos rfl]
    · rw [get_set_ne h, if_neg (by simpa using h), loseMany_zero]

theorem loseBoard_runOf (s : State) (i : Fin 64) (n : Half) : (s.loseBoard i).runOf n = s.runOf n := by
  unfold State.runOf
  congr 1
  funext r
  rw [loseBoard_slots]
  simp only [ne_eq, loseMany_state_free]
  rfl

/-- RUN_CLOSED for a run that loses its last board. -/
def State.closing (s : State) (i : Fin 64) : List Notice :=
  match s.runOf s.boards[i].run with
  | none => []
  | some r =>
    if s.runs.slots[r].addLost.closes = true then [.runClosed s.runs.slots[r].number r.val] else []

theorem loseBoard_notices (s : State) (i : Fin 64) :
    (s.loseBoard i).notices = (s.forEach (s.closing i) State.raise).notices := by
  have hruns : (s.freedLost i).runs = s.runs := freedLost_only s i .runs (by simp)
  have hsame := forEach_raise_notices_congr (freedLost_only s i .notices (by simp)) (freedLost_only s i .routes (by simp))
  refine Eq.trans (loseBoard_left s i .notices (by simp)) ?_
  unfold State.closing
  cases hrun : s.runOf s.boards[i].run with
  | none =>
    rw [leaveRun_none _ _ _ ((freedLost_runOf s i _).trans hrun)]
    exact hsame []
  | some r =>
    obtain ⟨-, hleft⟩ := leaveRun_some (s.freedLost i) _ RunSlot.addLost r ((freedLost_runOf s i _).trans hrun)
    rw [hleft, hruns, hsame]
    rfl

theorem refs_setRefs_ne (x : Banks) {j k : BankId} (h : j ≠ k) (n : Nat) : (x.setRefs j n).refs k = x.refs k := by
  cases j <;> cases k <;> first | rfl | exact absurd rfl h

theorem loseBoard_banks (s : State) (i : Fin 64) :
    (s.loseBoard i).banks = s.banks.setRefs s.boards[i].bank (s.banks.refs s.boards[i].bank - 1) := by
  have hbanks : ((s.freedLost i).leaveRun s.boards[i].run RunSlot.addLost).banks = s.banks :=
    Eq.trans (leaveRun_only _ _ _ .banks (by simp)) (freedLost_only s i .banks (by simp))
  rw [loseBoard_eq, setRefs_banks, hbanks]

/-! ### All of them -/

/-- The boards of a list in one run. -/
def State.lostOf (s : State) (is : List (Fin 64)) (r : Fin 8) : Nat :=
  (is.filter fun i => decide (s.runOf s.boards[i].run = some r)).length

/-- The boards of a list from one bank. -/
def State.lostFrom (s : State) (is : List (Fin 64)) (k : BankId) : Nat :=
  (is.filter fun i => decide (s.boards[i].bank = k)).length

theorem lostOf_loseBoard (s : State) (i : Fin 64) (is : List (Fin 64)) (r : Fin 8) :
    (s.loseBoard i).lostOf is r = s.lostOf is r := by
  unfold State.lostOf
  simp only [loseBoard_runOf, (loseBoard_kept s i _).1]

theorem lostFrom_loseBoard (s : State) (i : Fin 64) (is : List (Fin 64)) (k : BankId) :
    (s.loseBoard i).lostFrom is k = s.lostFrom is k := by
  unfold State.lostFrom
  simp only [(loseBoard_kept s i _).2]

theorem lostOf_cons (s : State) (i : Fin 64) (is : List (Fin 64)) (r : Fin 8) :
    s.lostOf (i :: is) r = (if s.runOf s.boards[i].run = some r then 1 else 0) + s.lostOf is r := by
  unfold State.lostOf
  rw [List.filter_cons]
  split <;> simp_all [Nat.add_comm]

theorem lostFrom_cons (s : State) (i : Fin 64) (is : List (Fin 64)) (k : BankId) :
    s.lostFrom (i :: is) k = (if s.boards[i].bank = k then 1 else 0) + s.lostFrom is k := by
  unfold State.lostFrom
  rw [List.filter_cons]
  split <;> simp_all [Nat.add_comm]

theorem loseAll_boards (is : List (Fin 64)) (s : State) (j : Fin 64) :
    (s.forEach is State.loseBoard).boards[j] =
      if j ∈ is then { s.boards[j] with state := .free, request := none } else s.boards[j] := by
  induction is generalizing s with
  | nil => rw [if_neg List.not_mem_nil]; rfl
  | cons i is ih =>
    refine (ih (s.loseBoard i)).trans ?_
    rw [loseBoard_boards]
    by_cases h : i = j
    · subst h
      rw [get_set_self, if_pos List.mem_cons_self, ite_self]
    · rw [get_set_ne h]
      simp only [List.mem_cons, Ne.symm h, false_or]

theorem loseAll_slots (is : List (Fin 64)) (s : State) (r : Fin 8) :
    (s.forEach is State.loseBoard).runs.slots[r] = s.runs.slots[r].loseMany (s.lostOf is r) := by
  induction is generalizing s with
  | nil => exact (loseMany_zero _).symm
  | cons i is ih =>
    refine (ih (s.loseBoard i)).trans ?_
    rw [loseBoard_slots, loseMany_loseMany, lostOf_loseBoard, lostOf_cons]

theorem loseAll_runs (is : List (Fin 64)) (s : State) :
    (s.forEach is State.loseBoard).runs = { s.runs with slots := (s.forEach is State.loseBoard).runs.slots } := by
  induction is generalizing s with
  | nil => rfl
  | cons i is ih =>
    have hfirst : (s.loseBoard i).runs = { s.runs with slots := (s.loseBoard i).runs.slots } := by
      rw [loseBoard_runs]
      cases s.runOf s.boards[i].run <;> rfl
    refine (ih (s.loseBoard i)).trans ?_
    rw [hfirst]
    rfl

theorem loseAll_banks (is : List (Fin 64)) (s : State) :
    (∀ k, (s.forEach is State.loseBoard).banks.refs k = s.banks.refs k - s.lostFrom is k) ∧
    (∀ k, (s.forEach is State.loseBoard).banks.state k = s.banks.state k) ∧
    (s.forEach is State.loseBoard).banks.pendingSwitch = s.banks.pendingSwitch := by
  induction is generalizing s with
  | nil => exact ⟨fun k => rfl, fun k => rfl, rfl⟩
  | cons i is ih =>
    obtain ⟨hrefs, hstate, hpending⟩ := ih (s.loseBoard i)
    rw [loseBoard_banks] at hpending
    simp only [loseBoard_banks, lostFrom_loseBoard] at hrefs hstate
    refine ⟨fun k => (hrefs k).trans ?_, fun k => (hstate k).trans ?_, hpending.trans ?_⟩
    · rw [lostFrom_cons]
      by_cases h : s.boards[i].bank = k
      · rw [h, refs_setRefs_self, if_pos rfl, Nat.sub_sub]
      · rw [refs_setRefs_ne _ h, if_neg h, Nat.zero_add]
    · cases s.boards[i].bank <;> cases k <;> rfl
    · cases s.boards[i].bank <;> rfl

theorem loseAll_runOf (is : List (Fin 64)) (s : State) (n : Half) :
    (s.forEach is State.loseBoard).runOf n = s.runOf n := by
  induction is generalizing s with
  | nil => rfl
  | cons i is ih => exact (ih (s.loseBoard i)).trans (loseBoard_runOf s i n)

theorem loseAll_run (is : List (Fin 64)) (s : State) (j : Fin 64) :
    (s.forEach is State.loseBoard).boards[j].run = s.boards[j].run := by
  rw [loseAll_boards]
  split <;> rfl

theorem loseAll_routes (is : List (Fin 64)) (s : State) : (s.forEach is State.loseBoard).routes = s.routes := by
  induction is generalizing s with
  | nil => rfl
  | cons i is ih => exact (ih (s.loseBoard i)).trans (loseBoard_routes s i)

/-- R60: after n of its boards, one more closes a FINISHING run where it is its last. -/
theorem loseMany_closes {x : RunSlot} {n : Nat} :
    (x.loseMany n).addLost.closes = true ↔ x.state = .finishing ∧ n + 1 = max 1 x.inLine := by
  rw [RunSlot.closes_iff, RunSlot.addLost, RunSlot.loseMany]
  simp only
  split
  case isTrue h =>
    refine iff_of_false (fun h => RunState.noConfusion h.1) fun k => ?_
    omega
  case isFalse h =>
    refine and_congr_right fun hstate => ?_
    have hnot : ¬(0 < n ∧ x.inLine ≤ n) := fun k => h ⟨hstate, k⟩
    omega

/-- RUN_CLOSED for the board of a list whose loss closes its run, the list being in ascending order. -/
def State.closingAmong (s : State) (all : List (Fin 64)) (i : Fin 64) : Option Notice :=
  (s.runOf s.boards[i].run).bind fun r =>
    if s.runs.slots[r].state = .finishing ∧
        (all.filter fun j => decide (j ≤ i ∧ s.runOf s.boards[j].run = some r)).length = max 1 s.runs.slots[r].inLine then
      some (.runClosed s.runs.slots[r].number r.val)
    else none

theorem lostUpTo_eq (s : State) {before after : List (Fin 64)} {i : Fin 64} {r : Fin 8}
    (hsorted : (before ++ i :: after).Pairwise (fun j k => j < k)) (hrun : s.runOf s.boards[i].run = some r) :
    ((before ++ i :: after).filter fun j => decide (j ≤ i ∧ s.runOf s.boards[j].run = some r)).length =
      s.lostOf before r + 1 := by
  obtain ⟨-, hafter, hbefore⟩ := List.pairwise_append.mp hsorted
  have hfirst : (before.filter fun j => decide (j ≤ i ∧ s.runOf s.boards[j].run = some r)) =
      before.filter fun j => decide (s.runOf s.boards[j].run = some r) := by
    refine List.filter_congr fun j hj => ?_
    have hle : j ≤ i := (hbefore j hj i List.mem_cons_self).le
    simp [hle]
  have hlast : (after.filter fun j => decide (j ≤ i ∧ s.runOf s.boards[j].run = some r)) = [] := by
    refine List.filter_eq_nil_iff.mpr fun j hj => ?_
    have hlt : i < j := (List.pairwise_cons.mp hafter).1 j hj
    simp [not_le.mpr hlt]
  rw [List.filter_append, List.filter_cons, if_pos (decide_eq_true ⟨le_rfl, hrun⟩), hfirst, hlast, List.length_append]
  rfl

theorem closing_loseAll (s : State) {before after : List (Fin 64)} {i : Fin 64}
    (hsorted : (before ++ i :: after).Pairwise (fun j k => j < k)) :
    (s.forEach before State.loseBoard).closing i = (s.closingAmong (before ++ i :: after) i).toList := by
  unfold State.closing State.closingAmong
  rw [loseAll_run, loseAll_runOf]
  cases hrun : s.runOf s.boards[i].run with
  | none => rfl
  | some r =>
    simp only [Option.bind_some, loseAll_slots, loseMany_closes, lostUpTo_eq s hsorted hrun]
    split <;> rfl

/-- R17, R60: the notices of the runs that close, in the order of the boards. -/
theorem loseAll_notices (s : State) {before after : List (Fin 64)}
    (hsorted : (before ++ after).Pairwise (fun j k => j < k)) :
    (s.forEach before State.loseBoard).notices =
      (s.forEach (before.filterMap (s.closingAmong (before ++ after))) State.raise).notices := by
  generalize hall : before ++ after = all at hsorted
  induction before using List.reverseRecOn generalizing after with
  | nil => rfl
  | append_singleton before i ih =>
    rw [List.append_assoc, List.singleton_append] at hall
    have hlost := loseBoard_notices (s.forEach before State.loseBoard) i
    rw [closing_loseAll s (after := after) (hall ▸ hsorted), hall] at hlost
    rw [forEach_append, List.filterMap_append]
    refine (raised_after (ih hall) (loseAll_routes before s) hlost).trans ?_
    cases hclosing : s.closingAmong all i <;> simp [hclosing]

/-! ### STOP_LINE -/

theorem releaseBank_banks (s : State) (k : BankId) (lug : Half) :
    (s.releaseBank k lug).banks =
      if s.banks.state k = .held ∧ s.banks.refs k = 0 then s.banks.setState k .spare else s.banks := by
  unfold State.releaseBank
  split
  · rw [publish_banks, raise_banks, State.setBanks_banks]
  · rfl

theorem releaseBank_notices (s : State) (k : BankId) (lug : Half) :
    (s.releaseBank k lug).notices =
      (s.forEach (if s.banks.state k = .held ∧ s.banks.refs k = 0 then [.bankReleased k lug] else [])
        State.raise).notices := by
  unfold State.releaseBank
  split
  · rw [publish_notices]
    exact raise_notices_congr (s := s) (t := s.setBanks (s.banks.setState k .spare)) rfl rfl _
  · rfl

theorem releaseBank_only (s : State) (k : BankId) (lug : Half) :
    OnlyChanges [.banks, .notices, .stamps, .publications] s (s.releaseBank k lug) :=
  (releaseBank_frame _ _ (by simp)).mpr (.refl _ _)

/-- The state once every board is lost (R6, steps 1 and 2). -/
def State.allLost (s : State) : State := (s.forEach s.slotsInUse State.loseBoard).setSolver Solver.atReset

/-- The state once the banks are released (R175). -/
def State.banksReleased (s : State) : State :=
  (s.allLost.releaseBank .a (s.lastLost .a)).releaseBank .b (s.lastLost .b)

theorem allLost_only (s : State) :
    OnlyChanges [.boards, .solver, .runs, .banks, .notices, .stamps, .publications] s s.allLost :=
  (setSolver_frame _ (by simp)).mpr
    ((onlyChanges_forEach fun u i => (loseBoard_frame i (by simp)).mpr (.refl _ _)).mpr (.refl _ _))

theorem stop_eq (s : State) : s.stop = s.banksReleased.dropPendingSwitch.enterIdleByStop := rfl

theorem banksReleased_only (s : State) : OnlyChanges [.banks, .notices, .stamps, .publications] s.allLost s.banksReleased :=
  (releaseBank_only _ _ _).trans (releaseBank_only _ _ _)

theorem enterIdleByStop_only (s : State) : OnlyChanges [.held, .lugLine, .logUnit, .lineState, .notices, .stamps, .publications]
    s s.enterIdleByStop :=
  (enterIdleByStop_frame (by simp)).mpr (.refl _ _)

theorem stop_after (s : State) :
    OnlyChanges [.banks, .held, .lugLine, .logUnit, .lineState, .notices, .stamps, .publications] s.allLost s.stop :=
  ((banksReleased_only s).mono (by simp)).trans
    (((dropPendingSwitch_frame (by simp)).mpr (.refl _ _)).trans ((enterIdleByStop_only _).mono (by simp)))

/-- R175: a bank is released for itself alone. -/
theorem releaseBank_spec (s : State) (j : BankId) (lug : Half) (k : BankId) :
    (s.releaseBank j lug).banks.refs k = s.banks.refs k ∧
    (s.releaseBank j lug).banks.state k =
      if j = k ∧ s.banks.state k = .held ∧ s.banks.refs k = 0 then .spare else s.banks.state k := by
  rw [releaseBank_banks]
  by_cases hreleased : s.banks.state j = .held ∧ s.banks.refs j = 0
  · rw [if_pos hreleased]
    by_cases h : j = k
    · subst h
      rw [if_pos ⟨rfl, hreleased⟩]
      cases j <;> exact ⟨rfl, rfl⟩
    · rw [if_neg fun k => h k.1]
      cases j <;> cases k <;> first | exact absurd rfl h | exact ⟨rfl, rfl⟩
  · rw [if_neg hreleased, if_neg]
    · exact ⟨rfl, rfl⟩
    · rintro ⟨rfl, h⟩
      exact hreleased h

theorem releaseBank_pendingSwitch (s : State) (j : BankId) (lug : Half) :
    (s.releaseBank j lug).banks.pendingSwitch = s.banks.pendingSwitch := by
  rw [releaseBank_banks]
  split
  · cases j <;> rfl
  · rfl

theorem allLost_banks (s : State) (k : BankId) :
    s.allLost.banks.refs k = s.banks.refs k - s.lostFrom s.slotsInUse k ∧ s.allLost.banks.state k = s.banks.state k := by
  obtain ⟨hrefs, hstate, -⟩ := loseAll_banks s.slotsInUse s
  exact ⟨hrefs k, hstate k⟩

/-- A HELD bank from which its last board is lost (R175). -/
theorem allLost_releases {s : State} {k : BankId} :
    (s.allLost.banks.state k = .held ∧ s.allLost.banks.refs k = 0) ↔
      s.banks.state k = .held ∧ s.banks.refs k ≤ s.lostFrom s.slotsInUse k := by
  obtain ⟨hrefs, hstate⟩ := allLost_banks s k
  rw [hrefs, hstate, Nat.sub_eq_zero_iff_le]

theorem stop_banks (s : State) : s.stop.banks = { s.banksReleased.banks with pendingSwitch := none } :=
  Eq.trans (enterIdleByStop_only s.banksReleased.dropPendingSwitch .banks (by simp))
    (dropPendingSwitch_banks _)

theorem stop_bank (s : State) (k : BankId) :
    s.stop.banks.refs k = s.banks.refs k - s.lostFrom s.slotsInUse k ∧
    s.stop.banks.state k =
      if s.banks.state k = .held ∧ s.banks.refs k ≤ s.lostFrom s.slotsInUse k then .spare else s.banks.state k := by
  obtain ⟨hrefs, hstate⟩ := allLost_banks s k
  obtain ⟨hrefsA, hstateA⟩ := releaseBank_spec s.allLost .a (s.lastLost .a) k
  obtain ⟨hrefsB, hstateB⟩ := releaseBank_spec (s.allLost.releaseBank .a (s.lastLost .a)) .b (s.lastLost .b) k
  have hreleased := allLost_releases (s := s) (k := k)
  have hkept : s.stop.banks.refs k = s.banksReleased.banks.refs k ∧ s.stop.banks.state k = s.banksReleased.banks.state k := by
    rw [stop_banks]
    cases k <;> exact ⟨rfl, rfl⟩
  refine ⟨hkept.1.trans (hrefsB.trans (hrefsA.trans hrefs)), hkept.2.trans (hstateB.trans ?_)⟩
  rw [hstateA, hrefsA]
  simp only [← hreleased]
  rw [← hstate]
  cases k <;> simp

/-- BANK_RELEASED for a bank that a stop releases (R175). -/
def State.releasing (s : State) (k : BankId) : Option Notice :=
  if s.banks.state k = .held ∧ s.banks.refs k ≤ s.lostFrom s.slotsInUse k then some (.bankReleased k (s.lastLost k)) else none

theorem slotsInUse_sorted (s : State) : s.slotsInUse.Pairwise (fun i j => i < j) :=
  (List.pairwise_lt_finRange 64).filter _

theorem allLost_routes (s : State) : s.allLost.routes = s.routes := loseAll_routes s.slotsInUse s

theorem allLost_notices (s : State) :
    s.allLost.notices = (s.forEach (s.slotsInUse.filterMap (s.closingAmong s.slotsInUse)) State.raise).notices := by
  have h := loseAll_notices s (before := s.slotsInUse) (after := []) (by rw [List.append_nil]; exact slotsInUse_sorted s)
  rwa [List.append_nil] at h

theorem banksReleased_notices (s : State) :
    s.banksReleased.notices =
      (s.forEach (s.slotsInUse.filterMap (s.closingAmong s.slotsInUse) ++ [BankId.a, .b].filterMap s.releasing)
        State.raise).notices := by
  have hfirst := releaseBank_notices s.allLost .a (s.lastLost .a)
  have hlast := releaseBank_notices (s.allLost.releaseBank .a (s.lastLost .a)) .b (s.lastLost .b)
  obtain ⟨hrefs, hstate⟩ := releaseBank_spec s.allLost .a (s.lastLost .a) .b
  rw [hstate.trans (if_neg fun h => BankId.noConfusion h.1), hrefs] at hlast
  simp only [allLost_releases] at hfirst hlast
  have hA := raised_after (allLost_notices s) (allLost_routes s) hfirst
  have hB := raised_after hA (Eq.trans (releaseBank_only _ _ _ .routes (by simp)) (allLost_routes s)) hlast
  refine hB.trans ?_
  rw [List.append_assoc]
  congr 2
  simp only [List.filterMap_cons, List.filterMap_nil, State.releasing]
  split <;> split <;> rfl

theorem enterIdleByStop_notices (s : State) :
    s.enterIdleByStop.notices = (s.forEach [.lineIdle s.lc] State.raise).notices := by
  unfold State.enterIdleByStop
  exact raise_notices_congr (by simp) (by simp) _

/-- R6, R60, R174, R175: the notices of a stop. -/
theorem stop_notices (s : State) :
    s.stop.notices =
      (s.forEach
        (s.slotsInUse.filterMap (s.closingAmong s.slotsInUse) ++ [BankId.a, .b].filterMap s.releasing ++
          (s.banks.pendingSwitch.toList.map fun x => .bankSwitched x.1 .dropped) ++ [.lineIdle s.lc])
        State.raise).notices := by
  have hdrop : OnlyChanges [.banks, .notices, .stamps, .publications] s.banksReleased s.banksReleased.dropPendingSwitch :=
    (dropPendingSwitch_frame (by simp)).mpr (.refl _ _)
  have hroutes : s.banksReleased.routes = s.routes :=
    Eq.trans (banksReleased_only s .routes (by simp)) (allLost_routes s)
  have hlc : s.banksReleased.dropPendingSwitch.lc = s.lc :=
    Eq.trans (hdrop .lc (by simp)) (Eq.trans (banksReleased_only s .lc (by simp)) (allLost_only s .lc (by simp)))
  have hpending : s.banksReleased.banks.pendingSwitch = s.banks.pendingSwitch :=
    (releaseBank_pendingSwitch _ _ _).trans ((releaseBank_pendingSwitch _ _ _).trans (loseAll_banks s.slotsInUse s).2.2)
  have hdropped := dropPendingSwitch_notices s.banksReleased
  have hidle := enterIdleByStop_notices s.banksReleased.dropPendingSwitch
  rw [hpending] at hdropped
  rw [hlc] at hidle
  exact raised_after (raised_after (banksReleased_notices s) hroutes hdropped)
    (Eq.trans (hdrop .routes (by simp)) hroutes) hidle

theorem enterIdleByStop_spec (s : State) :
    s.enterIdleByStop.lineState = .idle ∧ s.enterIdleByStop.lugLine = Vector.replicate 64 none ∧
      s.enterIdleByStop.held = [] ∧ s.enterIdleByStop.logUnit = { s.logUnit with openLog := none } := by
  unfold State.enterIdleByStop
  simp

/-- R6, steps 4 to 7. -/
theorem stop_spec (s : State) :
    s.stop.lineState = .idle ∧ s.stop.lugLine = Vector.replicate 64 none ∧ s.stop.held = [] ∧
      s.stop.logUnit = { s.logUnit with openLog := none } := by
  have hdrop : OnlyChanges [.banks, .notices, .stamps, .publications] s.banksReleased s.banksReleased.dropPendingSwitch :=
    (dropPendingSwitch_frame (by simp)).mpr (.refl _ _)
  have hlog : s.banksReleased.dropPendingSwitch.logUnit = s.logUnit :=
    Eq.trans (hdrop .logUnit (by simp)) (Eq.trans (banksReleased_only s .logUnit (by simp)) (allLost_only s .logUnit (by simp)))
  rw [stop_eq, ← hlog]
  exact enterIdleByStop_spec _

theorem mem_slotsInUse {s : State} {i : Fin 64} : i ∈ s.slotsInUse ↔ s.boards[i].state ≠ .free := by
  rw [State.slotsInUse, List.mem_filter, Board.inUse, decide_eq_true_eq]
  exact and_iff_right (List.mem_finRange i)

end Sys2Proof.Machine

namespace Sys2Proof.Proofs
open Sys2Proof.Machine

/-- Settles O33: the drain that is done completes at the command, and the one that is not changes the line state alone. -/
theorem drainLineDrains : Obligations.DrainLineDrains := by
  intro s htakes hrun
  have hdo := drainLine_of_run (s := s.offered drainLineEntry) (by rw [offered_lineState, hrun])
  rw [← doCommand_drainLineEntry] at hdo
  refine ⟨_, exec_drainLine s, given_answered htakes hdo, fun hbusy => ?_, fun hboards hlog => ?_⟩
  · rw [drainIfDone_not _ (by
      rw [draining_drained, offered_anyInUse, offered_logUnit]
      rintro ⟨hboards, hlog⟩
      exact hbusy.elim (fun h => Bool.noConfusion (h.symm.trans hboards)) fun h => h hlog)] at hdo
    refine ⟨Eq.trans (given_effect htakes hdo .lineState (by simp)) (publish_lineState _ _ _), ?_⟩
    refine given_publishing_frame (T := [.lineState]) htakes ?_
    rw [hdo]
    exact draining_only
  · obtain ⟨hline, hlugs, hheld, hbanks, hnotices, -, honly⟩ := drainIfDone_done (s.offered drainLineEntry).draining (by
      rw [draining_drained, offered_anyInUse, offered_logUnit]
      exact ⟨hboards, hlog⟩)
    have hentered : OnlyChanges [.lineState, .stamps, .publications] (s.offered drainLineEntry)
        (s.offered drainLineEntry).draining := draining_only
    have heffect := given_effect htakes hdo
    have hkeptBanks : (s.offered drainLineEntry).draining.banks = s.banks :=
      Eq.trans (hentered .banks (by simp)) (offered_banks s _)
    have hkeptLc : (s.offered drainLineEntry).draining.lc = s.lc := Eq.trans (hentered .lc (by simp)) (offered_lc s _)
    have hraise := fun ns => (forEach_raise_notices_congr (hentered .notices (by simp)) (hentered .routes (by simp)) ns).trans
      (offered_forEach_raise_notices s drainLineEntry ns)
    rw [hkeptBanks, hkeptLc, hraise] at hnotices
    rw [hkeptBanks] at hbanks
    refine ⟨Eq.trans (heffect .lineState (by simp)) hline, fun i => ?_, Eq.trans (heffect .held (by simp)) hheld,
      Eq.trans (heffect .banks (by simp)) hbanks, Eq.trans (heffect .notices (by simp)) hnotices, ?_⟩
    · have hkept : (s.given drainLineEntry).lugLine = Vector.replicate 64 none :=
        Eq.trans (heffect .lugLine (by simp)) hlugs
      rw [hkept]
      exact Vector.getElem_replicate i.isLt
    · refine given_publishing_frame (T := [.lineState, .lugLine, .held, .banks, .notices]) htakes ?_
      rw [hdo]
      exact (hentered.mono (by simp)).trans (honly.mono (by simp))

/-- The state that a stop counts is the one in which the command is taken. -/
theorem stop_counts_offered (s : State) (x : CommandEntry) :
    (s.offered x).slotsInUse = s.slotsInUse ∧ (∀ n, (s.offered x).runOf n = s.runOf n) := by
  refine ⟨by rw [State.slotsInUse, State.slotsInUse, offered_boards], runOf_congr (offered_runs s x)⟩

/-- Settles O34: the boards are lost one by one, and then the banks, the switch and the line are as `stop_notices` and
`stop_bank` say. -/
theorem stopLineStops : Obligations.StopLineStops := by
  intro s htakes hrunning lostFrom lostIn closes released lostUpTo closings releases
  have hdo : (s.offered stopLineEntry).doCommand stopLineEntry.command =
      ((s.offered stopLineEntry).stop, plainAnswer .ok) := if_pos ((offered_running s _).trans hrunning)
  have heffect := given_effect htakes hdo
  obtain ⟨hslots, hrunOf⟩ := stop_counts_offered s stopLineEntry
  have hboards := offered_boards s stopLineEntry
  have hafter := stop_after (s.offered stopLineEntry)
  obtain ⟨hline, hlugs, hheld, hlog⟩ := stop_spec (s.offered stopLineEntry)
  rw [offered_logUnit] at hlog
  have hruns : (s.given stopLineEntry).runs =
      ((s.offered stopLineEntry).forEach (s.offered stopLineEntry).slotsInUse State.loseBoard).runs :=
    Eq.trans (heffect .runs (by simp)) (hafter .runs (by simp))
  have hlostOf : ∀ r, (s.offered stopLineEntry).lostOf (s.offered stopLineEntry).slotsInUse r = lostIn r := fun r => by
    simp only [State.lostOf, hslots, hrunOf, hboards]
    rfl
  have hlostFrom : ∀ k, (s.offered stopLineEntry).lostFrom (s.offered stopLineEntry).slotsInUse k = lostFrom k := fun k => by
    simp only [State.lostFrom, hslots, hboards]
    rfl
  have hlast : ∀ k, (s.offered stopLineEntry).lastLost k = s.lastLost k := fun k => by
    simp only [State.lastLost, hslots, hboards]
  have hbanks : (s.given stopLineEntry).banks = (s.offered stopLineEntry).stop.banks := heffect .banks (by simp)
  refine ⟨_, exec_stopLine s, Eq.trans (heffect .lineState (by simp)) hline, fun i => ⟨?lug, ?board⟩, fun r => ?run,
    ?runs, fun k => ?bank, ?pending, Eq.trans (heffect .held (by simp)) hheld,
    Eq.trans (heffect .solver (by simp)) (hafter .solver (by simp)), Eq.trans (heffect .logUnit (by simp)) hlog, ?notices,
    given_answered htakes hdo,
    given_publishing_frame (T := [.lineState, .lugLine, .boards, .solver, .held, .logUnit, .runs, .banks, .notices]) htakes
      (by simp [doCommand_stopLineEntry])⟩
  case lug =>
    have hkept : (s.given stopLineEntry).lugLine = Vector.replicate 64 none := Eq.trans (heffect .lugLine (by simp)) hlugs
    rw [hkept]
    exact Vector.getElem_replicate i.isLt
  case board =>
    have hkept : (s.given stopLineEntry).boards =
        ((s.offered stopLineEntry).forEach (s.offered stopLineEntry).slotsInUse State.loseBoard).boards :=
      Eq.trans (heffect .boards (by simp)) (hafter .boards (by simp))
    rw [hkept, loseAll_boards, hslots, hboards]
    by_cases hfree : s.boards[i].state = .free
    · rw [if_pos hfree, if_neg (mem_slotsInUse.not.mpr (not_not_intro hfree))]
    · rw [if_neg hfree, if_pos (mem_slotsInUse.mpr hfree)]
  case run =>
    rw [hruns, loseAll_slots, hlostOf, offered_runs]
    exact ⟨rfl, rfl, rfl, fun h => if_pos h, fun h => if_neg h⟩
  case runs =>
    rw [hruns, loseAll_runs, offered_runs]
    exact ⟨rfl, rfl, rfl, rfl⟩
  case bank =>
    obtain ⟨hrefs, hstate⟩ := stop_bank (s.offered stopLineEntry) k
    rw [hlostFrom, offered_banks] at hrefs hstate
    rw [hbanks]
    exact ⟨hrefs, fun h => hstate.trans (if_pos h), fun h => hstate.trans (if_neg h)⟩
  case pending => rw [hbanks, stop_banks]
  case notices =>
    refine Eq.trans (heffect .notices (by simp)) ((stop_notices _).trans ?_)
    rw [offered_forEach_raise_notices, offered_banks, offered_lc, hslots]
    have hclosings : s.slotsInUse.filterMap ((s.offered stopLineEntry).closingAmong s.slotsInUse) = closings := by
      refine List.filterMap_congr fun i _ => ?_
      simp only [State.closingAmong, hrunOf, hboards, offered_runs]
      rfl
    have hreleases : [BankId.a, .b].filterMap (s.offered stopLineEntry).releasing = releases := by
      refine List.filterMap_congr fun k _ => ?_
      rw [State.releasing, hlostFrom, offered_banks, hlast]
    rw [hclosings, hreleases]

end Sys2Proof.Proofs
end

section
/-! HEAD_ENABLE (R29, R41) and SAW_MASK (R82, R83, R85, R88, R89). -/

namespace Sys2Proof.Machine

variable {s t : State} {x : CommandEntry}

@[simp] theorem offered_heads (s : State) (x : CommandEntry) : (s.offered x).heads = s.heads :=
  offered_only s x .heads (by simp)

@[simp] theorem offered_sawMask (s : State) (x : CommandEntry) : (s.offered x).sawMask = s.sawMask :=
  offered_only s x .sawMask (by simp)

@[simp] theorem offered_solver (s : State) (x : CommandEntry) : (s.offered x).solver = s.solver :=
  offered_only s x .solver (by simp)

@[simp] theorem offered_stats (s : State) (x : CommandEntry) : (s.offered x).stats = s.stats :=
  offered_only s x .stats (by simp)

/-! ### HEAD_ENABLE -/

/-- The entry that HEAD_ENABLE gives (Table 10-2). -/
def headEnableEntry (heads : Half) : CommandEntry := ⟨6, heads, 0⟩

theorem exec_headEnable (s : State) (heads : Half) :
    exec (.headEnable heads) s = .next (s.given (headEnableEntry heads)) := rfl

theorem doCommand_headEnableEntry (s : State) (heads : Half) :
    s.doCommand (headEnableEntry heads).command = s.headEnable heads := rfl

theorem enableHead_heads (s : State) (heads : Half) (h : Fin 9) :
    (s.enableHead heads h).heads = s.heads.set h { s.heads[h] with enabled := heads.getLsbD h.val } := by
  unfold State.enableHead
  split
  case isTrue hsame =>
    rw [← hsame]
    exact (Vector.set_getElem_self h.isLt).symm
  case isFalse => exact publish_heads _ _ _

theorem forEach_enableHead_heads (heads : Half) (h : Fin 9) (hs : List (Fin 9)) (s : State) :
    (s.forEach hs fun u k => u.enableHead heads k).heads[h] =
      if h ∈ hs then { s.heads[h] with enabled := heads.getLsbD h.val } else s.heads[h] := by
  induction hs generalizing s with
  | nil => rw [if_neg List.not_mem_nil]; rfl
  | cons k hs ih =>
    refine (ih (s.enableHead heads k)).trans ?_
    rw [enableHead_heads]
    by_cases hk : k = h
    · subst hk
      rw [get_set_self, if_pos List.mem_cons_self, ite_self]
    · rw [get_set_ne hk]
      simp only [List.mem_cons, Ne.symm hk, false_or]

/-- The heads enabled and disabled (R29). -/
def State.headsEnabled (s : State) (heads : Half) : State := s.forEach (List.finRange 9) fun u h => u.enableHead heads h

theorem headsEnabled_only (s : State) (heads : Half) :
    OnlyChanges [.heads, .stamps, .publications] s (s.headsEnabled heads) :=
  (onlyChanges_forEach fun u h => (enableHead_frame heads h (by simp)).mpr (.refl _ _)).mpr (.refl _ _)

theorem headEnable_of_range {heads : Half} (h : 0x1FF < heads.toNat) : s.headEnable heads = (s, plainAnswer .range) := if_pos h

theorem headEnable_of_valid {heads : Half} (h : heads.toNat ≤ 0x1FF) :
    s.headEnable heads =
      (if s.disablesBoardHead heads then (s.headsEnabled heads).earlyCloseAll else s.headsEnabled heads, plainAnswer .ok) :=
  if_neg (Nat.not_lt.mpr h)

theorem disablesBoardHead_eq_false {heads : Half}
    (h : ∀ k : Fin 9, k.val < 8 → s.heads[k].enabled = true → heads.getLsbD k.val = true) :
    s.disablesBoardHead heads = false := by
  refine List.any_eq_false.mpr fun k _ => ?_
  rintro hdisables
  obtain ⟨henabled, hbit⟩ := Bool.and_eq_true_iff.mp hdisables
  have hkept : heads.getLsbD k.val = true := h (boardHead k) k.isLt henabled
  rw [hkept] at hbit
  exact Bool.noConfusion hbit

/-! ### SAW_MASK -/

/-- The entry that SAW_MASK gives (Table 10-2). -/
def sawMaskEntry (saws : Half) : CommandEntry := ⟨5, saws, 0⟩

theorem exec_sawMask (s : State) (saws : Half) : exec (.sawMask saws) s = .next (s.given (sawMaskEntry saws)) := rfl

theorem doCommand_sawMaskEntry (s : State) (saws : Half) :
    s.doCommand (sawMaskEntry saws).command = s.setSawMask saws := rfl

/-- The board whose plan is made stale, with the RESOLVE request (R85). -/
def Board.resolved (b : Board) (y : BoardState) : Board :=
  { b with stale := b.plan, plan := none, request := some .resolve, state := y }

/-- Of boards re-solved in turn, those that take a shared credit (R82). -/
def Solver.sharedAmong (x : Solver) (js : List (Fin 64)) : List (Fin 64) := js.take (6 - x.shared.length)

/-- The one, if any, that takes the reserved RESOLVE credit (R82). -/
def Solver.reservedAmong (x : Solver) (js : List (Fin 64)) : List (Fin 64) :=
  if x.reservedResolve = none then (js.drop (6 - x.shared.length)).take 1 else []

/-- Those that take none and wait (R83). -/
def Solver.waitersAmong (x : Solver) (js : List (Fin 64)) : List (Fin 64) :=
  if x.reservedResolve = none then (js.drop (6 - x.shared.length)).drop 1 else js.drop (6 - x.shared.length)

/-- A SOLVED board re-solved, and its record published (Table 5-3). -/
def State.resolveOne (s : State) (j : Fin 64) : State := (s.resolveCause j).publish .lugTracker (.board j)

/-- R82, R83, R85: the first credit that is free, in the order of R82, or a place among the waiters. -/
theorem resolveOne_spec {j : Fin 64} (hstate : s.boards[j].state = .solved) :
    let t := s.resolveOne j
    (s.solver.shared.length < 6 →
      t.boards = s.boards.set j (s.boards[j].resolved .queued) ∧
      t.solver = { s.solver with shared := s.solver.shared ++ [j] } ∧ t.stats = s.stats) ∧
    (6 ≤ s.solver.shared.length → s.solver.reservedResolve = none →
      t.boards = s.boards.set j (s.boards[j].resolved .queued) ∧
      t.solver = { s.solver with reservedResolve := some j } ∧
      t.stats = s.stats.set (14 : Fin 24) (satAdd s.stats[(14 : Fin 24)] 1)) ∧
    (6 ≤ s.solver.shared.length → s.solver.reservedResolve ≠ none →
      t.boards = s.boards.set j (s.boards[j].resolved .awaiting) ∧
      t.solver = { s.solver with waiting := (s.staled j).insertByAge j s.solver.waiting } ∧
      t.stats = s.stats.set (13 : Fin 24) (satAdd s.stats[(13 : Fin 24)] 1)) := by
  have hself : (s.staled j).boards[j] = { s.boards[j] with stale := s.boards[j].plan, plan := none } := by
    rw [State.staled, State.setBoard_boards, get_set_self]
  have hset : ∀ y, (s.staled j).boards.set j { (s.staled j).boards[j] with request := some .resolve, state := y } =
      s.boards.set j (s.boards[j].resolved y) := fun y => by
    rw [hself]
    exact set_set_board rfl
  obtain ⟨hshared, hreserved, hwaits⟩ := raiseRequest_resolve (s.staled j) j
  rw [← resolveCause_solved_eq hstate] at hshared hreserved hwaits
  have hboards : (s.resolveOne j).boards = (s.resolveCause j).boards := publish_boards _ _ _
  have hsolver : (s.resolveOne j).solver = (s.resolveCause j).solver := publish_solver _ _ _
  have hstats : (s.resolveOne j).stats = (s.resolveCause j).stats := publish_stats _ _ _
  dsimp only
  rw [hboards, hsolver, hstats]
  refine ⟨fun hroom => ?_, fun hfull hfree => ?_, fun hfull hheld => ?_⟩
  · rw [hshared hroom]
    exact ⟨hset .queued, rfl, rfl⟩
  · rw [hreserved hfull hfree]
    exact ⟨hset .queued, rfl, rfl⟩
  · rw [hwaits hfull hheld]
    exact ⟨hset .awaiting, rfl, rfl⟩

/-! #### The boards re-solved in turn -/

theorem resolveOne_only (s : State) (j : Fin 64) :
    OnlyChanges [.boards, .solver, .stats, .stamps, .publications] s (s.resolveOne j) :=
  (publish_frame _ _ (by simp)).mpr ((resolveCause_frame j (by simp)).mpr (.refl _ _))

theorem waitersAmong_subset (y : Solver) {js : List (Fin 64)} {j : Fin 64} (h : j ∈ y.waitersAmong js) : j ∈ js := by
  unfold Solver.waitersAmong at h
  split at h
  · exact List.mem_of_mem_drop (List.mem_of_mem_drop h)
  · exact List.mem_of_mem_drop h

theorem among_cons_of_room {y : Solver} {j : Fin 64} {js : List (Fin 64)} (h : y.shared.length < 6) :
    y.sharedAmong (j :: js) = j :: Solver.sharedAmong { y with shared := y.shared ++ [j] } js ∧
    y.reservedAmong (j :: js) = Solver.reservedAmong { y with shared := y.shared ++ [j] } js ∧
    y.waitersAmong (j :: js) = Solver.waitersAmong { y with shared := y.shared ++ [j] } js := by
  have hlength : 6 - y.shared.length = 6 - (y.shared ++ [j]).length + 1 := by
    rw [List.length_append, List.length_singleton]
    omega
  simp only [Solver.sharedAmong, Solver.reservedAmong, Solver.waitersAmong, hlength, List.take_succ_cons,
    List.drop_succ_cons, and_self]

theorem among_of_full {y : Solver} {js : List (Fin 64)} (h : 6 ≤ y.shared.length) :
    y.sharedAmong js = [] ∧ y.reservedAmong js = (if y.reservedResolve = none then js.take 1 else []) ∧
      y.waitersAmong js = if y.reservedResolve = none then js.drop 1 else js := by
  have hlength : 6 - y.shared.length = 0 := by omega
  simp only [Solver.sharedAmong, Solver.reservedAmong, Solver.waitersAmong, hlength, List.take_zero, List.drop_zero,
    and_self]

/-- What the re-solves of the boards of a list, oldest first, make of the state (R82, R83, R85). -/
structure Resolved (s : State) (js : List (Fin 64)) (t : State) : Prop where
  listed : ∀ j ∈ js, t.boards[j] = s.boards[j].resolved (if j ∈ s.solver.waitersAmong js then .awaiting else .queued)
  others : ∀ j, j ∉ js → t.boards[j] = s.boards[j]
  credits : t.solver.inFlight = s.solver.inFlight ∧ t.solver.shared = s.solver.shared ++ s.solver.sharedAmong js ∧
    t.solver.reservedFirst = s.solver.reservedFirst ∧
    t.solver.reservedResolve = ((s.solver.reservedAmong js).head? <|> s.solver.reservedResolve)
  waiting : t.solver.waiting.Perm (s.solver.waiting ++ s.solver.waitersAmong js)
  sorted : s.solver.waiting.Pairwise s.Older → t.solver.waiting.Pairwise s.Older
  counted : t.stats[(13 : Fin 24)] = satAdd s.stats[(13 : Fin 24)] (s.solver.waitersAmong js).length ∧
    t.stats[(14 : Fin 24)] = satAdd s.stats[(14 : Fin 24)] (s.solver.reservedAmong js).length ∧
    ∀ k : Fin 24, k ∉ [(13 : Fin 24), 14] → t.stats[k] = s.stats[k]

theorem resolved_nil (s : State) : Resolved s [] s where
  listed := fun _ h => absurd h List.not_mem_nil
  others := fun _ _ => rfl
  credits := by simp [Solver.sharedAmong, Solver.reservedAmong]
  waiting := by simp [Solver.waitersAmong]
  sorted := id
  counted := by simp [Solver.waitersAmong, Solver.reservedAmong, satAdd_zero]

theorem insertByAge_perm (s : State) (i : Fin 64) (js : List (Fin 64)) : (s.insertByAge i js).Perm (i :: js) := by
  obtain ⟨older, younger, hsplit, hinsert, -, -⟩ := insertByAge_split s i js
  rw [hinsert, hsplit]
  exact List.perm_middle

section Cons

variable {u : State} {j : Fin 64} {js : List (Fin 64)}

/-- The lugs stand where a record is re-solved, so age does. -/
theorem older_of_set {y : BoardState} (hboards : u.boards = s.boards.set j (s.boards[j].resolved y)) (hlc : u.lc = s.lc) :
    u.Older = s.Older := by
  funext a b
  rw [State.Older, State.Older, distance_of_set hboards rfl hlc, distance_of_set hboards rfl hlc]

/-- The records after the rest is re-solved, where the first is re-solved already. -/
theorem resolved_cons_boards {y : BoardState} (hboards : u.boards = s.boards.set j (s.boards[j].resolved y))
    (hnodup : (j :: js).Nodup) (hrest : Resolved u js t)
    (hwaiters : ∀ k ∈ js, k ∈ s.solver.waitersAmong (j :: js) ↔ k ∈ u.solver.waitersAmong js)
    (hfirst : y = if j ∈ s.solver.waitersAmong (j :: js) then .awaiting else .queued) :
    (∀ k ∈ j :: js, t.boards[k] =
      s.boards[k].resolved (if k ∈ s.solver.waitersAmong (j :: js) then .awaiting else .queued)) ∧
    ∀ k, k ∉ j :: js → t.boards[k] = s.boards[k] := by
  obtain ⟨hnot, -⟩ := List.nodup_cons.mp hnodup
  refine ⟨fun k hk => ?_, fun k hk => ?_⟩
  · rcases List.mem_cons.mp hk with rfl | hlater
    · rw [hrest.others k hnot, hboards, get_set_self, ← hfirst]
    · have hne : j ≠ k := fun h => hnot (h ▸ hlater)
      rw [hrest.listed k hlater, hboards, get_set_ne hne]
      simp only [hwaiters k hlater]
  · obtain ⟨hne, hlater⟩ := not_or.mp (List.mem_cons.not.mp hk)
    rw [hrest.others k hlater, hboards, get_set_ne (Ne.symm hne)]

/-- A shared credit is free. -/
theorem resolved_cons_of_room (hroom : s.solver.shared.length < 6)
    (hboards : u.boards = s.boards.set j (s.boards[j].resolved .queued))
    (hsolver : u.solver = { s.solver with shared := s.solver.shared ++ [j] }) (hstats : u.stats = s.stats)
    (hlc : u.lc = s.lc) (hnodup : (j :: js).Nodup) (hrest : Resolved u js t) : Resolved s (j :: js) t := by
  obtain ⟨hshared, hreserved, hwaiters⟩ := among_cons_of_room (js := js) (j := j) hroom
  obtain ⟨hnot, -⟩ := List.nodup_cons.mp hnodup
  rw [← hsolver] at hshared hreserved hwaiters
  obtain ⟨hlisted, hothers⟩ := resolved_cons_boards hboards hnodup hrest (fun k _ => by rw [hwaiters])
    (by rw [hwaiters, if_neg fun h => hnot (waitersAmong_subset _ h)])
  obtain ⟨hflight, hpool, hfirst, hresolve⟩ := hrest.credits
  refine ⟨hlisted, hothers, ⟨?_, ?_, ?_, ?_⟩, ?_, ?_, ?_⟩
  · rw [hflight, hsolver]
  · rw [hpool, hshared, hsolver, List.append_assoc, List.singleton_append]
  · rw [hfirst, hsolver]
  · rw [hresolve, hreserved, hsolver]
  · rw [hwaiters]
    exact hrest.waiting.trans (by rw [hsolver])
  · have hsorted := hrest.sorted
    rw [older_of_set hboards hlc, hsolver] at hsorted
    exact hsorted
  · rw [hwaiters, hreserved, ← hstats]
    exact hrest.counted

/-- The reserved RESOLVE credit alone is free. -/
theorem resolved_cons_of_reserved (hfull : 6 ≤ s.solver.shared.length) (hfree : s.solver.reservedResolve = none)
    (hboards : u.boards = s.boards.set j (s.boards[j].resolved .queued))
    (hsolver : u.solver = { s.solver with reservedResolve := some j })
    (hstats : u.stats = s.stats.set (14 : Fin 24) (satAdd s.stats[(14 : Fin 24)] 1))
    (hlc : u.lc = s.lc) (hnodup : (j :: js).Nodup) (hrest : Resolved u js t) : Resolved s (j :: js) t := by
  obtain ⟨hshared, hreserved, hwaiters⟩ := among_of_full (js := j :: js) hfull
  obtain ⟨hshared', hreserved', hwaiters'⟩ := among_of_full (y := u.solver) (js := js) (by rw [hsolver]; exact hfull)
  rw [if_pos hfree] at hreserved hwaiters
  rw [hsolver, if_neg (Option.some_ne_none j), ← hsolver] at hreserved' hwaiters'
  obtain ⟨hnot, -⟩ := List.nodup_cons.mp hnodup
  obtain ⟨hlisted, hothers⟩ := resolved_cons_boards hboards hnodup hrest
    (fun k _ => by rw [hwaiters, hwaiters', List.drop_one, List.tail_cons])
    (by rw [hwaiters, List.drop_one, List.tail_cons, if_neg hnot])
  obtain ⟨hflight, hpool, hfirst, hresolve⟩ := hrest.credits
  obtain ⟨hwaits, huses, hkept⟩ := hrest.counted
  refine ⟨hlisted, hothers, ⟨?_, ?_, ?_, ?_⟩, ?_, ?_, ?_, ?_, fun k hk => ?_⟩
  · rw [hflight, hsolver]
  · rw [hpool, hshared, hshared', hsolver]
  · rw [hfirst, hsolver]
  · rw [hresolve, hreserved, hreserved', hsolver]
    rfl
  · rw [hwaiters]
    have hperm := hrest.waiting
    rw [hwaiters', hsolver] at hperm
    exact hperm
  · have hsorted := hrest.sorted
    rw [older_of_set hboards hlc, hsolver] at hsorted
    exact hsorted
  · rw [hwaits, hwaiters, hwaiters', hstats, get_set_ne (by decide)]
    rfl
  · rw [huses, hreserved, hreserved', hstats, get_set_self, satAdd_satAdd]
    rfl
  · rw [hkept k hk, hstats, get_set_ne (i := (14 : Fin 24)) (j := k) fun h => hk (by rw [← h]; decide)]

/-- No credit is free. -/
theorem resolved_cons_of_none (hfull : 6 ≤ s.solver.shared.length) (hheld : s.solver.reservedResolve ≠ none)
    (hboards : u.boards = s.boards.set j (s.boards[j].resolved .awaiting))
    (hsolver : u.solver = { s.solver with waiting := (s.staled j).insertByAge j s.solver.waiting })
    (hstats : u.stats = s.stats.set (13 : Fin 24) (satAdd s.stats[(13 : Fin 24)] 1))
    (hlc : u.lc = s.lc) (hnodup : (j :: js).Nodup) (hrest : Resolved u js t) : Resolved s (j :: js) t := by
  obtain ⟨hshared, hreserved, hwaiters⟩ := among_of_full (js := j :: js) hfull
  obtain ⟨hshared', hreserved', hwaiters'⟩ := among_of_full (y := u.solver) (js := js) (by rw [hsolver]; exact hfull)
  rw [if_neg hheld] at hreserved hwaiters
  have hheld' : u.solver.reservedResolve ≠ none := by rwa [hsolver]
  rw [if_neg hheld'] at hreserved' hwaiters'
  obtain ⟨hlisted, hothers⟩ := resolved_cons_boards hboards hnodup hrest
    (fun k hk => by
      rw [hwaiters, hwaiters']
      exact iff_of_true (List.mem_cons_of_mem j hk) hk)
    (by rw [hwaiters, if_pos List.mem_cons_self])
  obtain ⟨hflight, hpool, hfirst, hresolve⟩ := hrest.credits
  obtain ⟨hwaits, huses, hkept⟩ := hrest.counted
  have hstaled : (s.staled j).Older = s.Older := by
    funext a b
    rw [State.Older, State.Older, distance_of_set (s := s) (t := s.staled j) rfl rfl rfl,
      distance_of_set (s := s) (t := s.staled j) rfl rfl rfl]
  refine ⟨hlisted, hothers, ⟨?_, ?_, ?_, ?_⟩, ?_, fun hordered => ?_, ?_, ?_, fun k hk => ?_⟩
  · rw [hflight, hsolver]
  · rw [hpool, hshared, hshared', hsolver]
  · rw [hfirst, hsolver]
  · rw [hresolve, hreserved, hreserved', hsolver]
  · have hperm := hrest.waiting
    rw [hwaiters', hsolver] at hperm
    rw [hwaiters]
    exact hperm.trans (((insertByAge_perm _ j s.solver.waiting).append_right js).trans List.perm_middle.symm)
  · have hsorted := hrest.sorted
    rw [older_of_set hboards hlc, hsolver] at hsorted
    refine hsorted ?_
    rw [← hstaled] at hordered ⊢
    exact (insertByAge_ordered _ j _ hordered).1
  · rw [hwaits, hwaiters, hwaiters', hstats, get_set_self, satAdd_satAdd, List.length_cons, Nat.add_comm]
  · rw [huses, hreserved, hreserved', hstats, get_set_ne (by decide)]
  · rw [hkept k hk, hstats, get_set_ne (i := (13 : Fin 24)) (j := k) fun h => hk (by rw [← h]; decide)]

end Cons

/-- R82, R83, R85: SOLVED boards re-solved in turn. -/
theorem forEach_resolveOne {js : List (Fin 64)} (hnodup : js.Nodup) (hsolved : ∀ j ∈ js, s.boards[j].state = .solved) :
    Resolved s js (s.forEach js State.resolveOne) := by
  induction js generalizing s with
  | nil => exact resolved_nil s
  | cons j js ih =>
    obtain ⟨hfirst, hlater⟩ := List.forall_mem_cons.mp hsolved
    obtain ⟨hnot, hrest⟩ := List.nodup_cons.mp hnodup
    have hlc : (s.resolveOne j).lc = s.lc := resolveOne_only s j .lc (by simp)
    have hkept : ∀ y, (s.resolveOne j).boards = s.boards.set j (s.boards[j].resolved y) →
        ∀ k ∈ js, (s.resolveOne j).boards[k].state = .solved := fun y hboards k hk => by
      have hne : j ≠ k := fun h => hnot (h ▸ hk)
      rw [hboards, get_set_ne hne]
      exact hlater k hk
    obtain ⟨hroom, hreserved, hnone⟩ := resolveOne_spec hfirst
    by_cases hfull : s.solver.shared.length < 6
    · obtain ⟨hboards, hsolver, hstats⟩ := hroom hfull
      exact resolved_cons_of_room hfull hboards hsolver hstats hlc hnodup (ih hrest (hkept _ hboards))
    · by_cases hfree : s.solver.reservedResolve = none
      · obtain ⟨hboards, hsolver, hstats⟩ := hreserved (Nat.le_of_not_lt hfull) hfree
        exact resolved_cons_of_reserved (Nat.le_of_not_lt hfull) hfree hboards hsolver hstats hlc hnodup
          (ih hrest (hkept _ hboards))
      · obtain ⟨hboards, hsolver, hstats⟩ := hnone (Nat.le_of_not_lt hfull) hfree
        exact resolved_cons_of_none (Nat.le_of_not_lt hfull) hfree hboards hsolver hstats hlc hnodup
          (ih hrest (hkept _ hboards))

theorem boardsByAge_nodup (s : State) (p : Board → Bool) : (s.boardsByAge p).Nodup := by
  have hperm : ∀ xs acc : List (Fin 64), (xs.foldl (fun js i => s.insertByAge i js) acc).Perm (xs ++ acc) := by
    intro xs
    induction xs with
    | nil => exact fun acc => .refl acc
    | cons x xs ih =>
      exact fun acc => (ih _).trans (((insertByAge_perm s x acc).append_left xs).trans List.perm_middle)
  have hall := hperm ((List.finRange 64).filter fun i => p s.boards[i]) []
  rw [List.append_nil] at hall
  exact hall.nodup_iff.mpr ((List.nodup_finRange 64).filter _)

/-! #### The solve in flight abandoned (R88) -/

/-- The board in flight is QUEUED, and the restart is counted. -/
structure Restarted (s t : State) : Prop where
  boards : ∀ j, t.boards[j] =
    if s.solver.inFlight.map Solve.slot = some j then { s.boards[j] with state := .queued } else s.boards[j]
  solver : t.solver = { s.solver with inFlight := none }
  counted : t.stats[(11 : Fin 24)] = satAdd s.stats[(11 : Fin 24)] (s.solver.inFlight.map Solve.slot).toList.length
  stats : ∀ k : Fin 24, k ≠ 11 → t.stats[k] = s.stats[k]

theorem restartInFlight_of_none (h : s.solver.inFlight = none) : s.restartInFlight = s := by
  unfold State.restartInFlight
  rw [h]

theorem restartInFlight_of_some {v : Solve} (h : s.solver.inFlight = some v) :
    s.restartInFlight = (s.restartSolve v.slot).publish .lugTracker (.board v.slot) := by
  unfold State.restartInFlight
  rw [h]

theorem restartInFlight_restarted (s : State) : Restarted s s.restartInFlight := by
  cases hflight : s.solver.inFlight with
  | none =>
    rw [restartInFlight_of_none hflight]
    refine ⟨fun j => ?_, ?_, ?_, fun k _ => rfl⟩
    · rw [hflight, if_neg (by simp)]
    · rw [← hflight]
    · rw [hflight]
      exact (satAdd_zero _).symm
  | some v =>
    have hboards : s.restartInFlight.boards = s.boards.set v.slot { s.boards[v.slot] with state := .queued } := by
      rw [restartInFlight_of_some hflight, publish_boards]
      rfl
    have hstats : s.restartInFlight.stats = s.stats.set (11 : Fin 24) (satAdd s.stats[(11 : Fin 24)] 1) := by
      rw [restartInFlight_of_some hflight, publish_stats]
      rfl
    refine ⟨fun j => ?_, ?_, ?_, fun k hk => ?_⟩
    · rw [hboards, hflight]
      by_cases hj : v.slot = j
      · subst hj
        rw [get_set_self]
        exact (if_pos rfl).symm
      · rw [get_set_ne hj, if_neg (by simpa using hj)]
    · rw [restartInFlight_of_some hflight, publish_solver]
      rfl
    · rw [hstats, hflight, get_set_self]
      rfl
    · rw [hstats, get_set_ne (i := (11 : Fin 24)) (j := k) hk.symm]

/-! #### The command -/

/-- The new mask in force, and the solve in flight abandoned (R88, R89). -/
def State.remasked (s : State) (mask : SawSet) : State :=
  (({ s with sawMask := mask } : State).publish .command .status).restartInFlight

/-- The boards that lose their plan to a mask, oldest first (R89). -/
def State.losers (s : State) (mask : SawSet) : List (Fin 64) :=
  (s.remasked mask).boardsByAge fun b => decide (b.state = .solved) && b.plan.any fun p => !sawsWithin p.saws mask

theorem changeMask_eq (s : State) (mask : SawSet) :
    s.changeMask mask = (s.remasked mask).forEach (s.losers mask) State.resolveOne := rfl

theorem remasked_restarted (s : State) (mask : SawSet) : Restarted s (s.remasked mask) := by
  have hrestarted := restartInFlight_restarted (({ s with sawMask := mask } : State).publish .command .status)
  have hboards : (({ s with sawMask := mask } : State).publish .command .status).boards = s.boards := publish_boards _ _ _
  have hsolver : (({ s with sawMask := mask } : State).publish .command .status).solver = s.solver := publish_solver _ _ _
  have hstats : (({ s with sawMask := mask } : State).publish .command .status).stats = s.stats := publish_stats _ _ _
  refine ⟨fun j => ?_, ?_, ?_, fun k hk => ?_⟩
  · rw [State.remasked, hrestarted.boards, hsolver, hboards]
  · rw [State.remasked, hrestarted.solver, hsolver]
  · rw [State.remasked, hrestarted.counted, hsolver, hstats]
  · rw [State.remasked, hrestarted.stats k hk, hstats]

theorem setMask_only (s : State) (mask : SawSet) : OnlyChanges [.sawMask, .stamps, .publications] s
    (({ s with sawMask := mask } : State).publish .command .status) := by
  refine (publish_frame _ _ (by simp)).mpr fun f hf => ?_
  cases f <;> first | rfl | (simp at hf)

theorem remasked_only (s : State) (mask : SawSet) :
    OnlyChanges [.sawMask, .boards, .solver, .stats, .stamps, .publications] s (s.remasked mask) :=
  (restartInFlight_frame (by simp)).mpr ((setMask_only s mask).mono (by simp))

theorem remasked_lug (s : State) (mask : SawSet) (j : Fin 64) : (s.remasked mask).boards[j].lug = s.boards[j].lug := by
  rw [(remasked_restarted s mask).boards]
  split <;> rfl

theorem remasked_older (s : State) (mask : SawSet) : (s.remasked mask).Older = s.Older := by
  have hlc : (s.remasked mask).lc = s.lc := remasked_only s mask .lc (by simp)
  funext a b
  simp only [State.Older, State.distance, hlc, remasked_lug]

theorem mem_losers {mask : SawSet} {j : Fin 64} :
    j ∈ s.losers mask ↔ s.solver.inFlight.map Solve.slot ≠ some j ∧ s.boards[j].state = .solved ∧
      ∃ p, s.boards[j].plan = some p ∧ sawsWithin p.saws mask = false := by
  obtain ⟨-, hmem⟩ := boardsByAge_spec (s.remasked mask) fun b =>
    decide (b.state = .solved) && b.plan.any fun p => !sawsWithin p.saws mask
  rw [State.losers, hmem, (remasked_restarted s mask).boards]
  by_cases hflown : s.solver.inFlight.map Solve.slot = some j
  · rw [if_pos hflown]
    simp [hflown]
  · rw [if_neg hflown, Bool.and_eq_true, decide_eq_true_eq, Option.any_eq_true]
    simp only [Bool.not_eq_true', ne_eq, hflown, not_false_eq_true, true_and]

theorem losers_older {mask : SawSet} : (s.losers mask).Pairwise s.Older := by
  rw [← remasked_older s mask]
  exact (boardsByAge_spec (s.remasked mask) _).1

/-- R82, R83, R85, R88, R89: the effect of a mask that differs. -/
theorem changeMask_resolved (s : State) (mask : SawSet) :
    Resolved (s.remasked mask) (s.losers mask) (s.changeMask mask) := by
  rw [changeMask_eq]
  refine forEach_resolveOne (boardsByAge_nodup _ _) fun j hj => ?_
  obtain ⟨hflown, hsolved, -⟩ := mem_losers.mp hj
  rw [(remasked_restarted s mask).boards, if_neg hflown]
  exact hsolved

theorem changeMask_sawMask (s : State) (mask : SawSet) : (s.changeMask mask).sawMask = mask := by
  have honly : OnlyChanges [.boards, .solver, .stats, .stamps, .publications]
      (({ s with sawMask := mask } : State).publish .command .status) (s.changeMask mask) :=
    (resolveLost_frame mask (by simp)).mpr ((restartInFlight_frame (by simp)).mpr (.refl _ _))
  exact Eq.trans (honly .sawMask (by simp)) (publish_sawMask _ _ _)

/-- R89: with no solve in flight and no plan lost, the mask alone changes. -/
theorem changeMask_of_none {mask : SawSet} (hflight : s.solver.inFlight = none)
    (hplans : ∀ (i : Fin 64) p, s.boards[i].state = .solved → s.boards[i].plan = some p → sawsWithin p.saws mask = true) :
    s.changeMask mask = ({ s with sawMask := mask } : State).publish .command .status := by
  have hlosers : s.losers mask = [] := by
    refine List.eq_nil_iff_forall_not_mem.mpr fun j hj => ?_
    obtain ⟨-, hsolved, p, hp, hlost⟩ := mem_losers.mp hj
    exact Bool.noConfusion (hlost.symm.trans (hplans j p hsolved hp))
  rw [changeMask_eq, hlosers, State.remasked, restartInFlight_of_none]
  · rfl
  · rw [publish_solver]
    exact hflight

theorem setSawMask_of_range {saws : Half} (h : 0x1FFF < saws.toNat) : s.setSawMask saws = (s, plainAnswer .range) := if_pos h

theorem setSawMask_of_same {saws : Half} (h : saws.toNat ≤ 0x1FFF) (hsame : saws.setWidth 13 = s.sawMask) :
    s.setSawMask saws = (s, plainAnswer .ok) :=
  (if_neg (Nat.not_lt.mpr h)).trans (if_pos hsame)

theorem setSawMask_of_new {saws : Half} (h : saws.toNat ≤ 0x1FFF) (hnew : saws.setWidth 13 ≠ s.sawMask) :
    s.setSawMask saws = (s.changeMask (saws.setWidth 13), plainAnswer .ok) :=
  (if_neg (Nat.not_lt.mpr h)).trans (if_neg hnew)

theorem offered_older (s : State) (x : CommandEntry) : (s.offered x).Older = s.Older := by
  funext a b
  simp only [State.Older, State.distance, offered_lc, offered_boards]

end Sys2Proof.Machine

namespace Sys2Proof.Proofs
open Sys2Proof.Machine

/-- Settles O38: the heads one by one, and the early close only where a board head is disabled. -/
theorem headEnableSet : Obligations.HeadEnableSet := by
  intro s heads htakes
  refine ⟨_, exec_headEnable s heads, fun hrange => ?_, fun hvalid => ?_⟩
  · have hdo := headEnable_of_range (s := s.offered (headEnableEntry heads)) hrange
    rw [← doCommand_headEnableEntry] at hdo
    obtain ⟨hanswer, -, hframe⟩ := given_of_unchanged htakes hdo
    exact ⟨hanswer, hframe⟩
  · have hdo := headEnable_of_valid (s := s.offered (headEnableEntry heads)) hvalid
    rw [← doCommand_headEnableEntry] at hdo
    have hheads : (s.given (headEnableEntry heads)).heads = ((s.offered (headEnableEntry heads)).headsEnabled heads).heads := by
      refine Eq.trans (given_effect htakes hdo .heads (by simp)) ?_
      split
      · exact ((earlyCloseAll_frame (T := [.lugLine, .boards, .solver, .stats, .notices, .stamps, .publications])
          (by simp)).mpr (.refl _ _)) .heads (by simp)
      · rfl
    refine ⟨fun h => ?_, given_answered htakes hdo, ?_, fun hnone => ?_⟩
    · rw [hheads, State.headsEnabled, forEach_enableHead_heads, if_pos (List.mem_finRange h), offered_heads]
    · exact given_publishing_frame (T := [.heads, .lugLine, .boards, .solver, .stats, .notices]) htakes
        (by simp [doCommand_headEnableEntry])
    · refine given_publishing_frame (T := [.heads]) htakes ?_
      rw [hdo, disablesBoardHead_eq_false (by rwa [offered_heads]), if_neg Bool.false_ne_true]
      dsimp only [List.cons_append, List.nil_append]
      exact headsEnabled_only (s.offered (headEnableEntry heads)) heads

/-- Settles O37: the same mask leaves the state as it is; a new one restarts the solve in flight, and then the boards that
lose their plan are re-solved in turn. -/
theorem sawMaskSet : Obligations.SawMaskSet := by
  intro s saws htakes mask flown older
  refine ⟨_, exec_sawMask s saws, fun hrange => ?_, fun hvalid => ?_, fun hvalid hnew => ?_⟩
  · have hdo := setSawMask_of_range (s := s.offered (sawMaskEntry saws)) hrange
    rw [← doCommand_sawMaskEntry] at hdo
    obtain ⟨hanswer, -, hframe⟩ := given_of_unchanged htakes hdo
    exact ⟨hanswer, hframe⟩
  · by_cases hsame : mask = s.sawMask
    · have hdo := setSawMask_of_same (s := s.offered (sawMaskEntry saws)) hvalid (by rwa [offered_sawMask])
      rw [← doCommand_sawMaskEntry] at hdo
      obtain ⟨hanswer, -, hframe⟩ := given_of_unchanged htakes hdo
      exact ⟨Eq.trans (hframe .sawMask (by simp [commandTraces])) hsame.symm, hanswer,
        hframe.mono fun f hf => List.mem_append_right _ hf, fun _ => hframe,
        fun _ _ => hframe.mono fun f hf => List.mem_cons_of_mem _ hf⟩
    · have hdo := setSawMask_of_new (s := s.offered (sawMaskEntry saws)) hvalid (by rwa [offered_sawMask])
      rw [← doCommand_sawMaskEntry] at hdo
      refine ⟨Eq.trans (given_effect htakes hdo .sawMask (by simp)) (changeMask_sawMask _ _), given_answered htakes hdo,
        given_publishing_frame (T := [.sawMask, .boards, .solver, .stats]) htakes (by simp [doCommand_sawMaskEntry]),
        fun h => absurd h hsame, fun hflight hplans => ?_⟩
      refine given_publishing_frame (T := [.sawMask]) htakes ?_
      rw [hdo, changeMask_of_none (by rwa [offered_solver]) (by rwa [offered_boards])]
      dsimp only [List.cons_append, List.nil_append]
      exact setMask_only (s.offered (sawMaskEntry saws)) mask
  · have hdo := setSawMask_of_new (s := s.offered (sawMaskEntry saws)) hvalid (by rwa [offered_sawMask])
    rw [← doCommand_sawMaskEntry] at hdo
    have heffect := given_effect htakes hdo
    have hboards : (s.given (sawMaskEntry saws)).boards = ((s.offered (sawMaskEntry saws)).changeMask mask).boards :=
      heffect .boards (by simp)
    have hsolver : (s.given (sawMaskEntry saws)).solver = ((s.offered (sawMaskEntry saws)).changeMask mask).solver :=
      heffect .solver (by simp)
    have hstats : (s.given (sawMaskEntry saws)).stats = ((s.offered (sawMaskEntry saws)).changeMask mask).stats :=
      heffect .stats (by simp)
    rw [hboards, hsolver, hstats]
    have hresolved := changeMask_resolved (s.offered (sawMaskEntry saws)) mask
    obtain ⟨hqueued, hlanded, hcounted, hkept⟩ := remasked_restarted (s.offered (sawMaskEntry saws)) mask
    have hmem := fun j => mem_losers (s := s.offered (sawMaskEntry saws)) (mask := mask) (j := j)
    have holder := losers_older (s := s.offered (sawMaskEntry saws)) (mask := mask)
    have hage := remasked_older (s.offered (sawMaskEntry saws)) mask
    have hnodup : ((s.offered (sawMaskEntry saws)).losers mask).Nodup := boardsByAge_nodup _ _
    rw [offered_older] at holder hage
    rw [offered_solver] at hlanded
    rw [offered_solver, offered_stats] at hcounted
    simp only [offered_boards, offered_solver, offered_stats] at hqueued hkept hmem
    generalize (s.offered (sawMaskEntry saws)).changeMask mask = t at hresolved
    generalize (s.offered (sawMaskEntry saws)).remasked mask = r at hresolved hqueued hlanded hcounted hkept hage
    generalize (s.offered (sawMaskEntry saws)).losers mask = js at hresolved hmem holder hnodup
    obtain ⟨hlisted, hothers, ⟨hflight, hshared, hfirst, hresolve⟩, hwaiting, hsorted, hwaits, huses, hrest⟩ := hresolved
    rw [hlanded] at hflight hshared hfirst hresolve hwaiting hsorted hwaits huses
    refine ⟨js, hnodup, holder, hmem, fun j hj => ?_, fun j hj => ?_, fun j hj hnot => ?_,
      ⟨hflight, hshared, hfirst, hresolve⟩, ⟨hwaiting, ?_⟩, ?_, ?_, ?_, fun k hk => ?_⟩
    · rw [hothers j fun h => ((hmem j).mp h).1 hj, hqueued, if_pos hj]
    · rw [hlisted j hj, hqueued, if_neg ((hmem j).mp hj).1, hlanded]
      rfl
    · rw [hothers j hnot, hqueued, if_neg hj]
    · rw [hage] at hsorted
      exact hsorted
    · rw [hrest 11 (by decide), hcounted]
    · rw [hwaits, hkept 13 (by decide)]
      rfl
    · rw [huses, hkept 14 (by decide)]
      rfl
    · simp only [List.mem_cons, List.not_mem_nil, or_false, not_or] at hk
      obtain ⟨hrestart, hwait, huse⟩ := hk
      rw [hrest k (by simp [hwait, huse]), hkept k hrestart]

end Sys2Proof.Proofs
end

section
/-! The lug event (R7 to R10, R107, R145, R172, R173). -/

namespace Sys2Proof.Machine

variable {s t u : State}

/-! ### The order of the tasks (log entry 6) -/

theorem mem_keepFirst {x : LugTask} {seen xs : List LugTask} : x ∈ keepFirst seen xs ↔ x ∈ xs ∧ x ∉ seen := by
  induction xs generalizing seen with
  | nil => simp [keepFirst]
  | cons y xs ih =>
    rw [keepFirst]
    split
    case isTrue hy =>
      rw [ih, List.mem_cons]
      exact ⟨fun ⟨hx, hnot⟩ => ⟨.inr hx, hnot⟩,
        fun ⟨hx, hnot⟩ => ⟨hx.resolve_left fun h => hnot (h ▸ hy), hnot⟩⟩
    case isFalse hy =>
      rw [List.mem_cons, ih, List.mem_cons, List.mem_cons]
      by_cases h : x = y
      · simp [h, hy]
      · simp [h]

theorem keepFirst_nodup (seen xs : List LugTask) : (keepFirst seen xs).Nodup := by
  induction xs generalizing seen with
  | nil => exact .nil
  | cons y xs ih =>
    rw [keepFirst]
    split
    · exact ih seen
    · exact List.nodup_cons.mpr ⟨fun h => (mem_keepFirst.mp h).2 List.mem_cons_self, ih _⟩

/-- Tasks asked for once each come first, in their order. -/
theorem prefix_keepFirst {seen xs ys : List LugTask} (hnodup : xs.Nodup) (hfresh : ∀ x ∈ xs, x ∉ seen) :
    xs <+: keepFirst seen (xs ++ ys) := by
  induction xs generalizing seen with
  | nil => exact List.nil_prefix
  | cons x xs ih =>
    obtain ⟨hx, hxs⟩ := List.forall_mem_cons.mp hfresh
    obtain ⟨hnot, hrest⟩ := List.nodup_cons.mp hnodup
    rw [List.cons_append, keepFirst, if_neg hx]
    refine (List.cons_prefix_cons.mpr ⟨rfl, ih hrest fun y hy hseen => ?_⟩)
    rcases List.mem_cons.mp hseen with rfl | hseen
    · exact hnot hy
    · exact hxs y hy hseen

/-- The tasks of a lug event, in the order asked for. -/
def lugTasks (order : List LugTask) : List LugTask := keepFirst [] (order ++ defaultTasks)

theorem lugTasks_perm (order : List LugTask) : (lugTasks order).Perm defaultTasks := by
  refine (List.perm_ext_iff_of_nodup (keepFirst_nodup _ _) (by decide)).mpr fun x => ?_
  have hall : x ∈ defaultTasks := by cases x <;> decide
  rw [mem_keepFirst]
  exact iff_of_true ⟨List.mem_append_right _ hall, List.not_mem_nil⟩ hall

/-! ### A new lug (R7, R8) -/

theorem lugEvent_of_running {order : List LugTask} (h : s.running = true) :
    s.lugEvent order = s.newLug.forEach (lugTasks order) State.lugTask := if_pos h

theorem lugEvent_of_not_running {order : List LugTask} (h : s.running = false) : s.lugEvent order = s :=
  if_neg (by rw [h]; exact Bool.false_ne_true)

theorem newLug_only : OnlyChanges [.lc, .lugLine, .stats, .event, .ports] s s.beginEvent.newLug := by
  intro f hf
  cases f <;> first | rfl | (simp at hf)

/-! ### The line state over the tasks (R5) -/

/-- The line goes at most from DRAIN to IDLE. -/
def State.LineGoesOn (s t : State) : Prop := t.lineState = s.lineState ∨ (s.lineState = .drain ∧ t.lineState = .idle)

theorem State.LineGoesOn.trans (h : s.LineGoesOn t) (k : t.LineGoesOn u) : s.LineGoesOn u := by
  rcases h with h | ⟨hdrain, hidle⟩
  · rcases k with k | ⟨kdrain, kidle⟩
    · exact .inl (k.trans h)
    · exact .inr ⟨h ▸ kdrain, kidle⟩
  · rcases k with k | ⟨kdrain, -⟩
    · exact .inr ⟨hdrain, k.trans hidle⟩
    · exact absurd (hidle.symm.trans kdrain) (by decide)

theorem drainIfDone_lineGoesOn (s : State) : s.LineGoesOn s.drainIfDone := by
  by_cases h : s.drained
  · obtain ⟨hidle, -⟩ := drainIfDone_done s h
    exact .inr ⟨h.1, hidle⟩
  · exact .inl (by rw [drainIfDone_not s h])

theorem lineGoesOn_of_eq (h : t.lineState = s.lineState) : s.LineGoesOn t := .inl h

theorem sortLug_none {lug : Half} (h : s.entry lug = none) : s.sortLug lug = s := by
  rw [State.sortLug, h]

theorem sortLug_board {lug : Half} {e : LugEntry} {i : Fin 64} (h : s.entry lug = some e) (hboard : e.board = some i) :
    s.sortLug lug = ((s.sortBoard i).setEntry lug none).drainIfDone := by
  simp only [State.sortLug, h, hboard]

theorem sortLug_empty {lug : Half} {e : LugEntry} (h : s.entry lug = some e) (hboard : e.board = none) :
    s.sortLug lug = (s.writeSort lug ⟨.written, lug, false, 0, 0, 0, 0, 0⟩).setEntry lug none := by
  simp only [State.sortLug, h, hboard]

theorem sortBoard_only (s : State) (i : Fin 64) :
    OnlyChanges [.boards, .sortRing, .bins, .runs, .stats, .banks, .notices, .stamps, .publications] s (s.sortBoard i) :=
  (sortBoard_frame i (by simp)).mpr (.refl _ _)

theorem sortLug_lineGoesOn (s : State) (lug : Half) : s.LineGoesOn (s.sortLug lug) := by
  cases he : s.entry lug with
  | none => exact lineGoesOn_of_eq (by rw [sortLug_none he])
  | some e =>
    cases hboard : e.board with
    | none =>
      rw [sortLug_empty he hboard]
      exact lineGoesOn_of_eq ((State.setEntry_lineState _ _ _).trans (writeSort_only s lug _ .lineState (by simp)))
    | some i =>
      rw [sortLug_board he hboard]
      exact (lineGoesOn_of_eq ((State.setEntry_lineState _ _ _).trans (sortBoard_only s i .lineState (by simp)))).trans
        (drainIfDone_lineGoesOn _)

theorem lugTask_lineGoesOn (s : State) (x : LugTask) : s.LineGoesOn (s.lugTask x) := by
  cases x with
  | sort => exact sortLug_lineGoesOn s _
  | enter =>
    exact .inl ((switchAtLug_frame (T := [.lugLine, .held, .banks, .notices, .stamps, .publications]) _ (by simp)).mpr
      ((moveHeld_frame _ (by simp)).mpr (.refl _ s)) .lineState (by simp))
  | close =>
    exact .inl ((closeLug_frame (T := [.lugLine, .boards, .solver, .stats, .notices, .stamps, .publications]) _
      (by simp)).mpr (.refl _ s) .lineState (by simp))
  | commit =>
    exact .inl ((commitPosition_frame (T := [.lugLine, .boards, .solver, .trimRing, .runs, .stats, .notices, .stamps,
      .publications]) _ (by simp)).mpr (.refl _ s) .lineState (by simp))
  | status => exact .inl (publish_lineState _ _ _)
  | statistics => exact .inl (publish_lineState _ _ _)

theorem forEach_lugTask_lineGoesOn (tasks : List LugTask) (s : State) : s.LineGoesOn (s.forEach tasks State.lugTask) := by
  induction tasks generalizing s with
  | nil => exact .inl rfl
  | cons x tasks ih => exact (lugTask_lineGoesOn s x).trans (ih (s.lugTask x))

theorem lugTask_enter (s : State) : s.lugTask .enter = (s.moveHeld s.lc).switchAtLug s.lc := rfl

theorem lugTask_commit (s : State) : s.lugTask .commit = s.commitPosition (s.lugAt s.commitC) := rfl

/-! ### The lug that enters scan (R107, R172, R173) -/

theorem moveHeld_of_none {n : Half} (h : s.heldFor n = none) : s.moveHeld n = s := by
  simp only [State.moveHeld, h]

theorem moveHeld_of_some {n : Half} {o : Override} {e : LugEntry} (h : s.heldFor n = some o) (he : s.entry n = some e) :
    s.moveHeld n = (s.dropHeld n).setEntry n (some { e with override := some o }) := by
  simp only [State.moveHeld, h, he]

theorem moveHeld_only (s : State) (n : Half) : OnlyChanges [.lugLine, .held] s (s.moveHeld n) :=
  (moveHeld_frame n (by simp)).mpr (.refl _ _)

theorem switchAtLug_only (s : State) (n : Half) :
    OnlyChanges [.banks, .notices, .stamps, .publications] s (s.switchAtLug n) :=
  (switchAtLug_frame n (by simp)).mpr (.refl _ _)

theorem switchAtLug_of_other {n : Half} (h : ∀ k, s.banks.pendingSwitch ≠ some (k, n)) : s.switchAtLug n = s := by
  unfold State.switchAtLug
  split
  · rfl
  · rename_i k lug hpending
    refine if_neg ?_
    rintro rfl
    exact h k hpending

theorem switchAtLug_made {n : Half} {k : BankId} (h : s.banks.pendingSwitch = some (k, n))
    (hcheck : bankCheck s.shadow k = none) : s.switchAtLug n = s.makeSwitch k n := by
  simp only [State.switchAtLug, h, hcheck, if_true]

theorem switchAtLug_refused {n : Half} {k : BankId} {code index : Nat} (h : s.banks.pendingSwitch = some (k, n))
    (hcheck : bankCheck s.shadow k = some (code, index)) :
    s.switchAtLug n = ((s.setBanks { s.banks with pendingSwitch := none }).publish .command .status).raise
      (.bankSwitched k (.refused code index)) := by
  simp only [State.switchAtLug, h, hcheck, if_true]

/-! ### A lug event that finds nothing (R7, R8, R145) -/

/-- No lug at close, commit and sort, no override held for the new lug and no switch pending for it. -/
structure State.Quiet (s : State) : Prop where
  closing : s.entry (s.lugAt (s.windowW + 1)) = none
  committing : s.entry (s.lugAt s.commitC) = none
  sorting : s.entry (s.lugAt s.sortS) = none
  held : s.heldFor s.lc = none
  pending : ∀ k, s.banks.pendingSwitch ≠ some (k, s.lc)
  published : s.path.initialRest = []

theorem commitLug_none {lug : Half} (h : s.entry lug = none) : s.commitLug lug = s := by
  rw [State.commitLug, h]

/-- The publications between the tasks leave the line as it is. -/
theorem State.Quiet.of_only (h : s.Quiet) (honly : OnlyChanges [.stamps, .publications] s t) : t.Quiet := by
  have hlc : t.lc = s.lc := honly .lc (by simp)
  have hconfig : t.config = s.config := honly .config (by simp)
  have hline : t.lugLine = s.lugLine := honly .lugLine (by simp)
  have hheld : t.held = s.held := honly .held (by simp)
  have hbanks : t.banks = s.banks := honly .banks (by simp)
  have hrest : t.path.initialRest = s.path.initialRest := honly .initialRest (by simp)
  have hentry : ∀ n, t.entry n = s.entry n := entry_congr hline
  obtain ⟨hclosing, hcommitting, hsorting, hheldFor, hpending, hpublished⟩ := h
  refine ⟨?_, ?_, ?_, ?_, ?_, ?_⟩
  · rwa [hentry, State.lugAt, State.windowW, hlc, hconfig]
  · rwa [hentry, State.lugAt, State.commitC, hlc, hconfig]
  · rwa [hentry, State.lugAt, State.sortS, hlc, hconfig]
  · rwa [State.heldFor, hheld, hlc]
  · rwa [hbanks, hlc]
  · rwa [hrest]

/-- The record that a task republishes on a quiet line. -/
def taskRecord : LugTask → Option Record
  | .enter => none
  | .close => none
  | .commit => none
  | .sort => none
  | .status => some .status
  | .statistics => some .stats

theorem taskRecord_inj {x y : LugTask} {r : Record} (hx : taskRecord x = some r) (hy : taskRecord y = some r) : x = y := by
  have hsame : taskRecord x = taskRecord y := hx.trans hy.symm
  have hsome : taskRecord x ≠ none := fun h => Option.some_ne_none r (hx.symm.trans h)
  cases x <;> cases y <;> simp [taskRecord] at hsame hsome ⊢

theorem lugTask_quiet (h : s.Quiet) (x : LugTask) : OnlyChanges [.stamps, .publications] s (s.lugTask x) ∧
    ∀ r, (s.lugTask x).stamp r = if taskRecord x = some r then s.stamp r + 1 else s.stamp r := by
  have hunit : ∀ r : Record, r.initUnit ∉ s.path.initialRest := fun r => by rw [h.published]; exact List.not_mem_nil
  have hpublished : ∀ (owner : FunctionalBlock) (q r : Record),
      (s.publish owner q).stamp r = if some q = some r then s.stamp r + 1 else s.stamp r := fun owner q r => by
    rw [stamp_publish]
    by_cases hr : r = q
    · rw [if_pos ⟨hr, hunit q⟩, if_pos (congrArg some hr.symm)]
    · rw [if_neg fun h => hr h.1, if_neg fun h => hr (Option.some.inj h).symm]
  have hsame : s.lugTask x = s → OnlyChanges [.stamps, .publications] s (s.lugTask x) ∧
      ∀ r, (s.lugTask x).stamp r = s.stamp r := fun heq => by
    rw [heq]
    exact ⟨.refl _ _, fun _ => rfl⟩
  cases x with
  | enter =>
    refine hsame ?_
    rw [lugTask_enter, moveHeld_of_none h.held, switchAtLug_of_other h.pending]
  | close => exact hsame (closeLug_none h.closing)
  | commit =>
    refine hsame ?_
    rw [lugTask_commit, State.commitPosition]
    split
    · rw [closeLug_none h.committing, commitLug_none h.committing]
    · exact commitLug_none h.committing
  | sort => exact hsame (sortLug_none h.sorting)
  | status => exact ⟨(publish_frame _ _ (by simp)).mpr (.refl _ _), hpublished _ _⟩
  | statistics => exact ⟨(publish_frame _ _ (by simp)).mpr (.refl _ _), hpublished _ _⟩

theorem forEach_lugTask_quiet (h : s.Quiet) {tasks : List LugTask} (hnodup : tasks.Nodup) :
    OnlyChanges [.stamps, .publications] s (s.forEach tasks State.lugTask) ∧
      ∀ r, (s.forEach tasks State.lugTask).stamp r =
        if ∃ x ∈ tasks, taskRecord x = some r then s.stamp r + 1 else s.stamp r := by
  induction tasks generalizing s with
  | nil => exact ⟨.refl _ _, fun r => (if_neg (by simp)).symm⟩
  | cons x tasks ih =>
    obtain ⟨hnot, hrest⟩ := List.nodup_cons.mp hnodup
    obtain ⟨honly, hstamp⟩ := lugTask_quiet h x
    obtain ⟨hlater, hstamps⟩ := ih (h.of_only honly) hrest
    refine ⟨honly.trans hlater, fun r => (hstamps r).trans ?_⟩
    rw [hstamp r]
    by_cases hx : taskRecord x = some r
    · have hnone : ¬∃ y ∈ tasks, taskRecord y = some r := by
        rintro ⟨y, hy, hr⟩
        exact hnot (taskRecord_inj hx hr ▸ hy)
      rw [if_neg hnone, if_pos hx, if_pos ⟨x, List.mem_cons_self, hx⟩]
    · rw [if_neg hx]
      simp only [List.exists_mem_cons_iff, hx, false_or]

/-- An index of the lug line that another lug within its reach has not. -/
theorem lugIndex_ne {n : Half} {d : Nat} (hlow : 1 ≤ d) (hhigh : d ≤ 63) :
    lugIndex n ≠ lugIndex (n - BitVec.ofNat 16 d) := by
  intro h
  have hval : n.toNat % 64 = (n - BitVec.ofNat 16 d).toNat % 64 := congrArg Fin.val h
  rw [BitVec.toNat_sub, BitVec.toNat_ofNat] at hval
  omega

theorem newLug_entry {d : Nat} (hlow : 1 ≤ d) (hhigh : d ≤ 63) :
    s.newLug.entry (s.lc + 1 - BitVec.ofNat 16 d) = s.entry (s.lc + 1 - BitVec.ofNat 16 d) := by
  have hline : s.newLug.lugLine = s.lugLine.set (lugIndex (s.lc + 1)) (some ⟨s.lc + 1, none, none, false⟩) := rfl
  rw [State.entry, State.entry, hline, get_set_ne (lugIndex_ne hlow hhigh)]

end Sys2Proof.Machine

namespace Sys2Proof.Proofs
open Sys2Proof.Machine

/-- Settles O7: the new lug, the tasks in their order, and the lug that enters scan by the cases of its override and of
the pending switch. -/
theorem lugEventAdvances : Obligations.LugEventAdvances := by
  refine ⟨fun s order hstop => ?_, fun s order hrun => ?_, fun s => ⟨?_, rfl, rfl, rfl⟩, fun s e he => ?_⟩
  · exact ⟨s.beginEvent, congrArg Host.Outcome.next (lugEvent_of_not_running hstop),
      (beginEvent_frame (by simp)).mpr (.refl _ _)⟩
  · have honly : OnlyChanges [.lineState, .lc, .lugLine, .boards, .solver, .held, .trimRing, .sortRing, .bins, .runs, .stats,
        .banks, .notices, .stamps, .publications, .event, .ports] s (s.beginEvent.newLug.forEach (lugTasks order) State.lugTask) :=
      (onlyChanges_forEach fun v x => (lugTask_frame x (by simp)).mpr (.refl _ v)).mpr (newLug_only.mono (by simp))
    have hlc : OnlyChanges [.lineState, .lugLine, .boards, .solver, .held, .trimRing, .sortRing, .bins, .runs, .stats, .banks,
        .notices, .stamps, .publications] s.beginEvent.newLug (s.beginEvent.newLug.forEach (lugTasks order) State.lugTask) :=
      (onlyChanges_forEach fun v x => (lugTask_frame x (by simp)).mpr (.refl _ v)).mpr (.refl _ _)
    exact ⟨s.beginEvent.newLug, _, lugTasks order, congrArg Host.Outcome.next (lugEvent_of_running hrun), rfl,
      lugTasks_perm order, fun hnodup => prefix_keepFirst hnodup fun _ _ => List.not_mem_nil,
      ⟨rfl, rfl, rfl, newLug_only⟩, hlc .lc (by simp), forEach_lugTask_lineGoesOn _ s.beginEvent.newLug, honly⟩
  · rw [lugTask_commit, State.commitPosition]
    split <;> rfl
  · have hmoved := moveHeld_only s s.lc
    have hswitched := switchAtLug_only (s.moveHeld s.lc) s.lc
    have hbanks : (s.moveHeld s.lc).banks = s.banks := hmoved .banks (by simp)
    have hshadow : (s.moveHeld s.lc).shadow = s.shadow := hmoved .shadow (by simp)
    rw [lugTask_enter]
    refine ⟨fun hnone => ?_, fun o ho => ?_, fun hother => ?_, fun k hpending hcheck => ?_, fun k code index hpending hcheck => ?_,
      (hmoved.mono (by simp)).trans (hswitched.mono (by simp))⟩
    · rw [moveHeld_of_none hnone] at hswitched ⊢
      exact ⟨hswitched .lugLine (by simp), hswitched .held (by simp)⟩
    · rw [moveHeld_of_some ho he] at hswitched ⊢
      exact ⟨hswitched .lugLine (by simp), hswitched .held (by simp)⟩
    · rw [switchAtLug_of_other (by rwa [hbanks])]
      exact hmoved
    · rw [switchAtLug_made (by rw [hbanks]; exact hpending) (by rwa [hshadow]), makeSwitch_banks, makeSwitch_notices, hbanks]
      refine ⟨?_, ?_, ?_, rfl, raise_notices_congr (hmoved .notices (by simp)) (hmoved .routes (by simp)) _⟩
      · cases k <;> rfl
      · cases k <;> rfl
      · intro j
        cases k <;> cases j <;> rfl
    · rw [switchAtLug_refused (by rw [hbanks]; exact hpending) (by rw [hshadow]; exact hcheck)]
      refine ⟨(raise_banks _ _).trans ((publish_banks _ _ _).trans (by rw [State.setBanks_banks, hbanks])), ?_⟩
      exact raise_notices_congr
        ((publish_notices _ _ _).trans ((State.setBanks_notices _ _).trans (hmoved .notices (by simp))))
        ((publish_routes _ _ _).trans ((State.setBanks_routes _ _).trans (hmoved .routes (by simp)))) _

/-- Settles O8: the two tasks that publish are the only ones of the six that do anything. -/
theorem lugEventOnEmptyLine : Obligations.LugEventOnEmptyLine := by
  intro s order hrun hpublished hempty hheld hpending
  have hentry : ∀ d ∈ [s.windowW + 1, s.commitC, s.sortS],
      s.beginEvent.newLug.entry (s.lc + 1 - BitVec.ofNat 16 d) = none := fun d hd => by
    obtain ⟨hlow, hhigh, hnone⟩ := hempty d hd
    exact (newLug_entry (s := s.beginEvent) hlow hhigh).trans hnone
  have hquiet : s.beginEvent.newLug.Quiet :=
    ⟨hentry (s.windowW + 1) (by simp), hentry s.commitC (by simp), hentry s.sortS (by simp), hheld, fun k hk => hpending _ hk rfl, hpublished⟩
  have hnodup : (lugTasks order).Nodup := keepFirst_nodup _ _
  obtain ⟨honly, hstamps⟩ := forEach_lugTask_quiet hquiet hnodup
  refine ⟨_, congrArg Host.Outcome.next (lugEvent_of_running (s := s.beginEvent) hrun), honly .lc (by simp),
    honly .lugLine (by simp), honly .stats (by simp), fun r => (hstamps r).trans ?_, ?_⟩
  · have hmem : (∃ x ∈ lugTasks order, taskRecord x = some r) ↔ r ∈ [Record.status, .stats] := by
      simp only [(lugTasks_perm order).mem_iff]
      simp [defaultTasks, taskRecord, eq_comm]
    simp only [hmem]
    rfl
  · exact (newLug_only.mono (by simp)).trans (honly.mono (by simp))

end Sys2Proof.Proofs
end

section
/-! The commit position (R14, R84, R90, R119, R121 to R124). -/

namespace Sys2Proof.Machine

variable {s t u : State} {i : Fin 64} {p : CommittedPlan}

/-! ### The cancellation of a request at commit (R90) -/

/-- The credit pool once the request of a board is ended (R90). -/
def Solver.returned (x : Solver) (i : Fin 64) : Solver :=
  { shared := x.shared.erase i
    reservedFirst := if x.reservedFirst = some i then none else x.reservedFirst
    reservedResolve := if x.reservedResolve = some i then none else x.reservedResolve
    waiting := x.waiting.erase i
    inFlight := if x.inFlight.map Solve.slot = some i then none else x.inFlight }

/-- The request ended and the cancellation counted. -/
def State.cancelled (s : State) (i : Fin 64) : State := (s.dropRequest i).bump .cancelledAtCommit

theorem cancelled_boards (s : State) (i : Fin 64) :
    (s.cancelled i).boards = s.boards.set i { s.boards[i] with request := none } := rfl

theorem cancelled_stats (s : State) (i : Fin 64) :
    (s.cancelled i).stats = s.stats.set (12 : Fin 24) (satAdd s.stats[(12 : Fin 24)] 1) := rfl

/-- A board whose request a commit cancels. -/
def Board.requests (b : Board) : Prop := b.state = .awaiting ∨ b.state = .queued ∨ b.state = .solving

theorem cancelAtCommit_awaiting (h : s.boards[i].state = .awaiting) : s.cancelAtCommit i = s.cancelled i :=
  (cancelAtCommit_request s i (.inl h)).trans (if_pos h)

theorem cancelAtCommit_served (h : s.boards[i].requests) (hnot : s.boards[i].state ≠ .awaiting) :
    s.cancelAtCommit i = (s.cancelled i).serveWaiting :=
  (cancelAtCommit_request s i h).trans (if_neg hnot)

theorem not_requests_iff {b : Board} : ¬b.requests ↔ b.state ≠ .awaiting ∧ b.state ≠ .queued ∧ b.state ≠ .solving := by
  unfold Board.requests
  simp only [not_or, ne_eq]

/-- What a cancellation keeps: the service of the waiting list changes a board's state alone, and of the counters that of
reserved credit uses alone. -/
theorem cancelled_keeps (h : s.boards[i].requests) :
    (s.cancelAtCommit i).solver.inFlight = (s.solver.returned i).inFlight ∧
    (∀ k : Fin 24, k ≠ 14 → (s.cancelAtCommit i).stats[k] = (s.cancelled i).stats[k]) ∧
    ∀ j : Fin 64, ∃ x, (s.cancelAtCommit i).boards[j] = { (s.cancelled i).boards[j] with state := x } := by
  by_cases hstate : s.boards[i].state = .awaiting
  · rw [cancelAtCommit_awaiting hstate]
    exact ⟨rfl, fun _ _ => rfl, fun j => ⟨_, rfl⟩⟩
  · rw [cancelAtCommit_served h hstate]
    obtain ⟨hflight, hstats, hboards, -⟩ := forEach_serveOne_keeps (s.cancelled i).solver.waiting (s.cancelled i)
    refine ⟨hflight, hstats, fun j => ?_⟩
    obtain ⟨x, hx, -⟩ := hboards j
    exact ⟨x, hx⟩

/-- The counters of fallbacks and overruns, and a board's plan, lug and run, stand over a cancellation. -/
theorem cancelAtCommit_keeps (s : State) (i : Fin 64) :
    (∀ k : Fin 24, k ≠ 12 → k ≠ 14 → (s.cancelAtCommit i).stats[k] = s.stats[k]) ∧
    ∀ j : Fin 64, ∃ (x : BoardState) (r : Option RequestClass),
      (s.cancelAtCommit i).boards[j] = { s.boards[j] with state := x, request := r } := by
  by_cases h : s.boards[i].requests
  · obtain ⟨-, hstats, hboards⟩ := cancelled_keeps h
    refine ⟨fun k hcancelled huses => ?_, fun j => ?_⟩
    · rw [hstats k huses, cancelled_stats, get_set_ne (i := (12 : Fin 24)) (j := k) hcancelled.symm]
    · obtain ⟨x, hx⟩ := hboards j
      rw [hx, cancelled_boards]
      by_cases hj : i = j
      · subst hj
        rw [get_set_self]
        exact ⟨x, none, rfl⟩
      · rw [get_set_ne hj]
        exact ⟨x, s.boards[j].request, rfl⟩
  · rw [cancelAtCommit_none s i (not_requests_iff.mp h)]
    exact ⟨fun _ _ _ => rfl, fun j => ⟨_, _, rfl⟩⟩

/-- R84, R90: the cancellation where the board has a request: its credit serves the waiting list, but for a board that had
none. -/
theorem cancelAtCommit_of_requests (h : s.boards[i].requests) :
    (s.cancelAtCommit i).boards[i].request = none ∧
    (s.cancelAtCommit i).solver.inFlight = (s.solver.returned i).inFlight ∧
    (s.cancelAtCommit i).stats[(12 : Fin 24)] = satAdd s.stats[(12 : Fin 24)] 1 ∧
    (s.boards[i].state = .awaiting ∨ (s.solver.returned i).waiting = [] → s.cancelAtCommit i = s.cancelled i) ∧
    (s.boards[i].state ≠ .awaiting → (s.solver.returned i).shared.length < 6 →
      ∀ j js, (s.solver.returned i).waiting = j :: js →
        (s.cancelAtCommit i).boards[j].state = .queued ∧ j ∈ (s.cancelAtCommit i).solver.shared) := by
  obtain ⟨hflight, hcounts, hkept⟩ := cancelled_keeps h
  refine ⟨?_, hflight, ?_, fun hnone => ?_, fun hnot hroom j js hwaiting => ?_⟩
  · obtain ⟨x, hx⟩ := hkept i
    rw [hx, cancelled_boards, get_set_self]
  · rw [hcounts 12 (by decide), cancelled_stats, get_set_self]
  · by_cases hstate : s.boards[i].state = .awaiting
    · exact cancelAtCommit_awaiting hstate
    · rw [cancelAtCommit_served h hstate]
      exact serveWaiting_nil (hnone.resolve_left hstate)
  · rw [cancelAtCommit_served h hnot]
    exact serveWaiting_oldest (s.cancelled i) j js hwaiting hroom

/-! ### The committed plan stored (R119, R121 to R124) -/

/-- R119 and R14, for a plan that is selected: the plan stored, a fallback counted, and the trim record written. -/
def State.commitTo (s : State) (i : Fin 64) (p : CommittedPlan) : State :=
  let u := s.setBoard i { s.boards[i] with committed := some p, stale := none }
  let v := (u.countFallback i p).writeTrim u.boards[i].lug (trimOf u.boards[i].lug (some p))
  (v.setBoard i { v.boards[i] with state := .committed }).publish .lugTracker (.board i)

theorem commitBoard_eq (s : State) (i : Fin 64) :
    s.commitBoard i = (s.cancelAtCommit i).commitTo i
      ((s.cancelAtCommit i).boards[i].selectCommit (s.cancelAtCommit i).shadow (s.cancelAtCommit i).sawMask) := rfl

/-- The record with its plan. -/
def State.planStored (s : State) (i : Fin 64) (p : CommittedPlan) : State :=
  s.setBoard i { s.boards[i] with committed := some p, stale := none }

theorem planStored_board (s : State) (i : Fin 64) (p : CommittedPlan) :
    (s.planStored i p).boards[i] = { s.boards[i] with committed := some p, stale := none } := by
  rw [State.planStored, State.setBoard_boards, get_set_self]

/-- The state once the fallback is counted and the trim record is written. -/
def State.trimmed (s : State) (i : Fin 64) (p : CommittedPlan) : State :=
  ((s.planStored i p).countFallback i p).writeTrim s.boards[i].lug (trimOf s.boards[i].lug (some p))

theorem trimmed_boards (s : State) (i : Fin 64) (p : CommittedPlan) : (s.trimmed i p).boards = (s.planStored i p).boards :=
  Eq.trans (writeTrim_only _ _ _ .boards (by simp)) (countFallback_only _ _ _ .boards (by simp))

theorem commitTo_eq (s : State) (i : Fin 64) (p : CommittedPlan) :
    s.commitTo i p = ((s.trimmed i p).setBoard i { (s.trimmed i p).boards[i] with state := .committed }).publish
      .lugTracker (.board i) := by
  have hlug : (s.planStored i p).boards[i].lug = s.boards[i].lug := by rw [planStored_board]
  unfold State.trimmed
  rw [← hlug]
  rfl

theorem commitTo_after (s : State) (i : Fin 64) (p : CommittedPlan) :
    OnlyChanges [.boards, .stamps, .publications] (s.trimmed i p) (s.commitTo i p) := by
  rw [commitTo_eq]
  exact (publish_frame _ _ (by simp)).mpr ((setBoard_frame _ _ (by simp)).mpr (.refl _ _))

theorem commitTo_boards (s : State) (i : Fin 64) (p : CommittedPlan) : (s.commitTo i p).boards =
    s.boards.set i { s.boards[i] with state := .committed, committed := some p, stale := none } := by
  rw [commitTo_eq, publish_boards, State.setBoard_boards, trimmed_boards, planStored_board]
  exact set_set_board rfl

theorem commitTo_solver (s : State) (i : Fin 64) (p : CommittedPlan) : (s.commitTo i p).solver = s.solver :=
  Eq.trans (commitTo_after s i p .solver (by simp))
    (Eq.trans (writeTrim_only _ _ _ .solver (by simp)) (countFallback_only _ _ _ .solver (by simp)))

theorem commitTo_trimRing (s : State) (i : Fin 64) (p : CommittedPlan) :
    (s.commitTo i p).trimRing = s.trimRing.set (ringSlot s.boards[i].lug) (trimOf s.boards[i].lug (some p)) := by
  have hcounted : ((s.planStored i p).countFallback i p).trimRing = s.trimRing := countFallback_only _ _ _ .trimRing (by simp)
  refine Eq.trans (commitTo_after s i p .trimRing (by simp)) ?_
  rw [State.trimmed, writeTrim_trimRing, hcounted]

theorem countFallback_of_not (h : p.isFallback = false) : s.countFallback i p = s :=
  if_neg (by rw [h]; exact Bool.false_ne_true)

/-- A fallback counted in its run and published (R122). -/
def State.runFallback (s : State) (i : Fin 64) : State :=
  (s.onRun s.boards[i].run RunSlot.addFallback).publishRun s.boards[i].run

theorem countFallback_of_isFallback (h : p.isFallback = true) : s.countFallback i p =
    ((s.runFallback i).bump .fallbacks).raise (.boardFallback s.boards[i].lug i.val p.source) := if_pos h

theorem runFallback_only (s : State) (i : Fin 64) : OnlyChanges [.runs, .stamps, .publications] s (s.runFallback i) :=
  (publishRun_frame _ (by simp)).mpr ((onRun_frame _ _ (by simp)).mpr (.refl _ _))

theorem runFallback_runs (s : State) (i : Fin 64) :
    (s.runFallback i).runs = (s.onRun s.boards[i].run RunSlot.addFallback).runs :=
  (publishRun_frame (T := [.stamps, .publications]) _ (by simp)).mpr (.refl _ _) .runs (by simp)

theorem countFallback_stats (s : State) (i : Fin 64) (p : CommittedPlan) :
    (s.countFallback i p).stats =
      if p.isFallback = true then s.stats.set (15 : Fin 24) (satAdd s.stats[(15 : Fin 24)] 1) else s.stats := by
  cases h : p.isFallback with
  | false => rw [countFallback_of_not h, if_neg Bool.false_ne_true]
  | true =>
    have hrun : (s.runFallback i).stats = s.stats := runFallback_only s i .stats (by simp)
    rw [countFallback_of_isFallback h, if_pos rfl, raise_stats, State.bump_stats, hrun]
    rfl

theorem countFallback_notices (s : State) (i : Fin 64) (p : CommittedPlan) :
    (s.countFallback i p).notices =
      (s.forEach (if p.isFallback = true then [.boardFallback s.boards[i].lug i.val p.source] else [])
        State.raise).notices := by
  cases h : p.isFallback with
  | false => rw [countFallback_of_not h, if_neg Bool.false_ne_true]; rfl
  | true =>
    rw [countFallback_of_isFallback h, if_pos rfl]
    exact raise_notices_congr ((State.bump_notices _ _).trans (runFallback_only s i .notices (by simp)))
      ((State.bump_routes _ _).trans (runFallback_only s i .routes (by simp))) _

theorem countFallback_runs (s : State) (i : Fin 64) (p : CommittedPlan) :
    (s.countFallback i p).runs =
      if p.isFallback = true then (s.onRun s.boards[i].run RunSlot.addFallback).runs else s.runs := by
  cases h : p.isFallback with
  | false => rw [countFallback_of_not h, if_neg Bool.false_ne_true]
  | true => rw [countFallback_of_isFallback h, if_pos rfl, raise_runs, State.bump_runs, runFallback_runs]

theorem planStored_stats (s : State) (i : Fin 64) (p : CommittedPlan) : (s.planStored i p).stats = s.stats := rfl

theorem planStored_runs (s : State) (i : Fin 64) (p : CommittedPlan) : (s.planStored i p).runs = s.runs := rfl

theorem planStored_only (s : State) (i : Fin 64) (p : CommittedPlan) : OnlyChanges [.boards] s (s.planStored i p) :=
  (setBoard_frame _ _ (by simp)).mpr (.refl _ _)

theorem fallbackCounted_trimRing (s : State) (i : Fin 64) (p : CommittedPlan) :
    ((s.planStored i p).countFallback i p).trimRing = s.trimRing := countFallback_only _ _ _ .trimRing (by simp)

/-- R122, R124: the counters of a commit, one after the other. -/
theorem commitTo_stats (s : State) (i : Fin 64) (p : CommittedPlan) :
    (s.commitTo i p).stats =
      let xs := if p.isFallback = true then s.stats.set (15 : Fin 24) (satAdd s.stats[(15 : Fin 24)] 1) else s.stats
      if s.trimRing[ringSlot s.boards[i].lug].state = .written then
        xs.set (19 : Fin 24) (satAdd xs[(19 : Fin 24)] 1)
      else xs := by
  refine Eq.trans (commitTo_after s i p .stats (by simp)) ?_
  rw [State.trimmed, writeTrim_stats, fallbackCounted_trimRing, countFallback_stats, planStored_stats]
  rfl

theorem commitTo_stats_at (s : State) (i : Fin 64) (p : CommittedPlan) :
    (s.commitTo i p).stats[(15 : Fin 24)] =
      (if p.isFallback = true then satAdd s.stats[(15 : Fin 24)] 1 else s.stats[(15 : Fin 24)]) ∧
    (s.commitTo i p).stats[(19 : Fin 24)] =
      (if s.trimRing[ringSlot s.boards[i].lug].state = .written then satAdd s.stats[(19 : Fin 24)] 1
        else s.stats[(19 : Fin 24)]) ∧
    ∀ k : Fin 24, k ∉ [(15 : Fin 24), 19] → (s.commitTo i p).stats[k] = s.stats[k] := by
  have hne : (15 : Fin 24) ≠ 19 := by decide
  rw [commitTo_stats]
  refine ⟨?_, ?_, fun k hk => ?_⟩
  · dsimp only
    split <;> split
    · rw [get_set_ne (i := (19 : Fin 24)) (j := 15) hne.symm, get_set_self]
    · rw [get_set_ne (i := (19 : Fin 24)) (j := 15) hne.symm]
    · rw [get_set_self]
    · rfl
  · dsimp only
    split <;> split
    · rw [get_set_self, get_set_ne (i := (15 : Fin 24)) (j := 19) hne]
    · rw [get_set_self]
    · rw [get_set_ne (i := (15 : Fin 24)) (j := 19) hne]
    · rfl
  · simp only [List.mem_cons, List.not_mem_nil, or_false, not_or] at hk
    obtain ⟨hfallback, hoverrun⟩ := hk
    dsimp only
    split <;> split
    · rw [get_set_ne (i := (19 : Fin 24)) (Ne.symm hoverrun), get_set_ne (i := (15 : Fin 24)) (Ne.symm hfallback)]
    · rw [get_set_ne (i := (19 : Fin 24)) (Ne.symm hoverrun)]
    · rw [get_set_ne (i := (15 : Fin 24)) (Ne.symm hfallback)]
    · rfl

theorem commitTo_runs (s : State) (i : Fin 64) (p : CommittedPlan) :
    (s.commitTo i p).runs =
      if p.isFallback = true then (s.onRun s.boards[i].run RunSlot.addFallback).runs else s.runs := by
  have hrun : (s.planStored i p).boards[i].run = s.boards[i].run := by rw [planStored_board]
  have hruns : ((s.planStored i p).onRun s.boards[i].run RunSlot.addFallback).runs =
      (s.onRun s.boards[i].run RunSlot.addFallback).runs := by
    cases h : s.runOf s.boards[i].run with
    | none => rw [onRun_of_none h, onRun_of_none (s := s.planStored i p) h, planStored_runs]
    | some r =>
      rw [onRun_of_some h, onRun_of_some (s := s.planStored i p) h]
      rfl
  refine Eq.trans (commitTo_after s i p .runs (by simp)) (Eq.trans (writeTrim_only _ _ _ .runs (by simp)) ?_)
  rw [countFallback_runs, hrun, hruns, planStored_runs]

/-- R122, R124: the notices of a commit, the fallback first. -/
theorem commitTo_notices (s : State) (i : Fin 64) (p : CommittedPlan) :
    (s.commitTo i p).notices =
      (s.forEach ((if p.isFallback = true then [.boardFallback s.boards[i].lug i.val p.source] else []) ++
        (if s.trimRing[ringSlot s.boards[i].lug].state = .written then
          [.trimOverrun s.trimRing[ringSlot s.boards[i].lug].lug s.boards[i].lug] else [])) State.raise).notices := by
  have hlug : (s.planStored i p).boards[i].lug = s.boards[i].lug := by rw [planStored_board]
  have hfallback := countFallback_notices (s.planStored i p) i p
  have hstored := forEach_raise_notices_congr (planStored_only s i p .notices (by simp))
    (planStored_only s i p .routes (by simp))
  have htrim := writeTrim_notices ((s.planStored i p).countFallback i p) s.boards[i].lug (trimOf s.boards[i].lug (some p))
  rw [hlug, hstored] at hfallback
  rw [fallbackCounted_trimRing] at htrim
  exact Eq.trans (commitTo_after s i p .notices (by simp))
    (raised_after hfallback (countFallback_only _ _ _ .routes (by simp)) htrim)

theorem commitLug_board {lug : Half} {e : LugEntry} (h : s.entry lug = some e) (hboard : e.board = some i) :
    s.commitLug lug = s.commitBoard i := by
  simp only [State.commitLug, h, hboard]

theorem commitLug_empty {lug : Half} {e : LugEntry} (h : s.entry lug = some e) (hboard : e.board = none) :
    s.commitLug lug = s.writeTrim lug (trimOf lug none) := by
  simp only [State.commitLug, h, hboard]

theorem isFallback_eq (p : CommittedPlan) :
    p.isFallback = (!p.product && decide (p.source ∈ [CommitSource.solved, .sawLost, .lateTrim, .noSolution])) := by
  simp [CommittedPlan.isFallback, Bool.or_assoc]

end Sys2Proof.Machine

namespace Sys2Proof.Proofs
open Sys2Proof.Machine

/-- Settles O10: the cancellation by the state of the board, then the commit of the plan selected, and an empty lug. -/
theorem commitOfBoard : Obligations.CommitOfBoard := by
  intro s lug e he t
  constructor
  · intro i hi b u p old requests returned fallback
    have ht : t = u.commitTo i p := by
      have hshadow : u.shadow = s.shadow := cancelAtCommit_only s i .shadow (by simp)
      have hmask : u.sawMask = s.sawMask := cancelAtCommit_only s i .sawMask (by simp)
      exact (commitLug_board he hi).trans (by rw [commitBoard_eq, hshadow, hmask])
    have hfallback : p.isFallback = fallback := isFallback_eq p
    obtain ⟨hstats, hboards⟩ := cancelAtCommit_keeps s i
    obtain ⟨x, request, hb⟩ := hboards i
    have hlug : u.boards[i].lug = b.lug := by rw [hb]
    have hrun : u.boards[i].run = b.run := by rw [hb]
    have hruns : u.runs = s.runs := cancelAtCommit_only s i .runs (by simp)
    have hplan : u.boards[i].plan = s.boards[i].plan := by rw [hb]
    have htrim : u.trimRing = s.trimRing := cancelAtCommit_only s i .trimRing (by simp)
    obtain ⟨hfallbacks, hoverruns, hrest⟩ := commitTo_stats_at u i p
    have hfallbackStat : u.stats[(15 : Fin 24)] = s.stats[(15 : Fin 24)] := hstats 15 (by decide) (by decide)
    have hoverrunStat : u.stats[(19 : Fin 24)] = s.stats[(19 : Fin 24)] := hstats 19 (by decide) (by decide)
    refine ⟨fun hnone => cancelAtCommit_none s i (not_requests_iff.mp hnone), fun hreq => ?_, ?_, ?_, fun j hj => ?_, ?_, ?_, ?_,
      ?_, fun k hk => ?_, fun r hcounted hr => ?_, fun hnot => ?_, ?_, ?_⟩
    · obtain ⟨hrequest, hflight, hcount, hplain, hserved⟩ := cancelAtCommit_of_requests (s := s) (i := i) hreq
      refine ⟨hrequest, hflight, hcount, fun h => ?_, hserved⟩
      have hu : u = s.cancelled i := hplain h
      rw [hu]
      exact ⟨rfl, rfl, rfl⟩
    · rw [ht, commitTo_boards, get_set_self]
    · rw [ht, commitTo_boards, get_set_self]
      exact hplan
    · rw [ht, commitTo_boards, get_set_ne hj.symm]
    · rw [ht, commitTo_solver]
    · rw [ht, commitTo_trimRing]
      simp only [hlug, htrim]
      rfl
    · rw [ht, hfallbacks, hfallback, hfallbackStat]
    · rw [ht, hoverruns, hoverrunStat]
      simp only [hlug, htrim]
      rfl
    · rw [ht, hrest k hk]
    · have hr' : u.runOf b.run = some r := (runOf_congr hruns b.run).trans hr
      rw [ht, commitTo_runs, hfallback, if_pos hcounted, hrun, onRun_of_some hr', State.setRun_runs, hruns]
      rfl
    · rw [ht, commitTo_runs, hfallback, hrun]
      rcases hnot with hnot | hnone
      · rw [hnot, if_neg Bool.false_ne_true, hruns]
      · rw [onRun_of_none ((runOf_congr hruns b.run).trans hnone), ite_self, hruns]
    · rw [ht, commitTo_notices, hfallback]
      simp only [hlug, htrim]
      exact forEach_raise_notices_congr (cancelAtCommit_only s i .notices (by simp))
        (cancelAtCommit_only s i .routes (by simp)) _
    · exact (commitLug_frame lug (by simp)).mpr (.refl _ _)
  · intro hempty old
    have ht : t = s.writeTrim lug (trimOf lug none) := commitLug_empty he hempty
    refine ⟨?_, fun hold => ⟨?_, ?_⟩, fun hold => ?_, ?_⟩
    · rw [ht, writeTrim_trimRing]
      rfl
    · rw [ht, writeTrim_stats, if_pos hold]
    · rw [ht, writeTrim_notices, if_pos hold]
      rfl
    · have hnone : ¬s.trimRing[ringSlot lug].state = .written := hold
      rw [ht, State.writeTrim]
      simp only [if_neg hnone]
      exact (publish_frame _ _ (by simp)).mpr ((setTrim_frame _ _ (by simp)).mpr (.refl _ _))
    · rw [ht]
      exact writeTrim_only _ _ _

end Sys2Proof.Proofs
end

section
/-! The sort position (R5, R10, R15, R60, R128 to R131, R138, R140, R142, R174, R175). -/

namespace Sys2Proof.Machine

variable {s t u : State} {i : Fin 64}

/-! ### The tally of a run (R140, R142) -/

theorem matrixIndex_of_code {g lc : Nat} {k : Fin 84} (hk : k.val = 12 * g + (lc - 1)) :
    matrixIndex g lc = k := by
  refine Fin.ext ?_
  have hval : (matrixIndex g lc).val = (g * 12 + (lc - 1)) % 84 := rfl
  omega

theorem ofNat_grade {g : Fin 8} {grade : Nat} (h : g.val = grade) : Fin.ofNat 8 grade = g :=
  Fin.ext ((Nat.mod_eq_of_lt (h ▸ g.isLt)).trans h.symm)

theorem addSorted_tally (x : RunSlot) {g : Fin 8} {grade : Nat} (hg : g.val = grade) (lc v f : Nat) :
    (x.addSorted grade lc v f).tally =
      { x.tally with
        sorted := satAdd x.tally.sorted 1
        pieces := x.tally.pieces.set g (satAdd x.tally.pieces[g] 1)
        footageBy := x.tally.footageBy.set g (satAdd x.tally.footageBy[g] f)
        matrix := (x.addSorted grade lc v f).tally.matrix
        footage := satAdd x.tally.footage f
        value := satAdd x.tally.value v
        recovery :=
          if x.tally.litres = 0 then 0
          else BitVec.ofNat 16 (min 65535 ((satAdd x.tally.footage f).toNat / x.tally.litres.toNat)) } := by
  unfold RunSlot.addSorted Tally.addSorted
  simp only [ofNat_grade hg]
  rfl

theorem addSorted_matrix_of_fallDown (x : RunSlot) (lc v f : Nat) {grade : Nat} (h : 7 ≤ grade) :
    (x.addSorted grade lc v f).tally.matrix = x.tally.matrix :=
  if_neg (by omega)

theorem addSorted_matrix_of_grade (x : RunSlot) {lc v f grade : Nat} {k : Fin 84} (h : grade ≤ 6)
    (hk : k.val = 12 * grade + (lc - 1)) :
    (x.addSorted grade lc v f).tally.matrix = x.tally.matrix.set k (satAdd x.tally.matrix[k] 1) :=
  (if_pos h).trans (by simp only [matrixIndex_of_code hk])

theorem addSorted_closes {x : RunSlot} {g lc v f : Nat} :
    (x.addSorted g lc v f).closes = true ↔ x.state = .finishing ∧ x.inLine ≤ 1 := by
  rw [RunSlot.closes_iff, RunSlot.addSorted]
  exact and_congr Iff.rfl (by simp only; omega)

/-! ### The statistics record is not republished by a sort (R145) -/

theorem publish_stamp_ne {owner : FunctionalBlock} {r q : Record} (h : q ≠ r) : (s.publish owner r).stamp q = s.stamp q :=
  (stamp_publish s owner r q).trans (if_neg fun k => h k.1)

theorem raise_stamp_stats (s : State) (n : Notice) : (s.raise n).stamp .stats = s.stamp .stats := raise_stamp _ _ _ nofun nofun

theorem countOverflow_stamp_stats (s : State) (lug : Half) (k : BankId) (p : CommittedPlan) (code : Nat) :
    (s.countOverflow lug k p code).stamp .stats = s.stamp .stats := by
  unfold State.countOverflow
  split
  · exact raise_stamp_stats s _
  · rfl

theorem fillBin_stamp_stats (s : State) (n : Fin 41) : (s.fillBin n).stamp .stats = s.stamp .stats := by
  unfold State.fillBin
  dsimp only
  refine Eq.trans (publish_stamp_ne (by simp)) ?_
  split
  · exact raise_stamp_stats (s.setBin n _) _
  · rfl

theorem writeSort_stamp_stats (s : State) (lug : Half) (x : SortSlot) : (s.writeSort lug x).stamp .stats = s.stamp .stats := by
  unfold State.writeSort
  dsimp only
  refine Eq.trans (publish_stamp_ne (by simp)) ?_
  split
  · exact raise_stamp_stats (s.bump .sortOverruns) _
  · rfl

theorem settleRun_stamp_stats (s : State) (r : Fin 8) : (s.settleRun r).stamp .stats = s.stamp .stats := by
  unfold State.settleRun
  dsimp only
  split
  · exact (raise_stamp_stats _ _).trans (publish_stamp_ne nofun)
  · exact publish_stamp_ne nofun

theorem leaveRun_stamp_stats (s : State) (n : Half) (f : RunSlot → RunSlot) :
    (s.leaveRun n f).stamp .stats = s.stamp .stats := by
  cases h : s.runOf n with
  | none => rw [leaveRun_none s n f h]
  | some r =>
    simp only [State.leaveRun, h]
    exact settleRun_stamp_stats (s.setRun r _) r

theorem releaseBank_stamp_stats (s : State) (k : BankId) (lug : Half) : (s.releaseBank k lug).stamp .stats = s.stamp .stats := by
  unfold State.releaseBank
  split
  · exact Eq.trans (publish_stamp_ne (by simp)) (raise_stamp_stats _ _)
  · rfl

theorem dropReference_stamp_stats (s : State) (k : BankId) (lug : Half) :
    (s.dropReference k lug).stamp .stats = s.stamp .stats := by
  rw [State.dropReference, releaseBank_stamp_stats, State.setRefs]
  exact publish_stamp_ne nofun

theorem freeSorted_stamp_stats (s : State) (i : Fin 64) (p : CommittedPlan) :
    (s.freeSorted i p).stamp .stats = s.stamp .stats := by
  unfold State.freeSorted
  dsimp only
  rw [dropReference_stamp_stats, leaveRun_stamp_stats]
  exact publish_stamp_ne nofun

theorem sortBoard_stamp_stats (s : State) (i : Fin 64) : (s.sortBoard i).stamp .stats = s.stamp .stats := by
  unfold State.sortBoard State.sortInto
  dsimp only
  rw [freeSorted_stamp_stats, writeSort_stamp_stats]
  exact (fillBin_stamp_stats _ _).trans (countOverflow_stamp_stats _ _ _ _ _)

/-! ### The completion of a drain (R5, R174) -/

theorem drainIfDone_only (s : State) :
    OnlyChanges [.lineState, .lugLine, .held, .banks, .notices, .stamps, .publications] s s.drainIfDone :=
  (drainIfDone_frame (by simp)).mpr (.refl _ _)

/-- The notices of a completed drain (R5, R174). -/
def State.drainNotices (s : State) : List Notice :=
  s.banks.pendingSwitch.toList.map (fun x => Notice.bankSwitched x.1 .dropped) ++ [.lineIdle s.lc]

theorem drainIfDone_notices (s : State) [Decidable s.drained] :
    s.drainIfDone.notices = (s.forEach (if s.drained then s.drainNotices else []) State.raise).notices := by
  split
  case isTrue h =>
    obtain ⟨-, -, -, -, hnotices, -⟩ := drainIfDone_done s h
    exact hnotices
  case isFalse h =>
    rw [drainIfDone_not s h]
    rfl

/-- Of the banks a completed drain changes the pending switch alone. -/
theorem drainIfDone_banks (s : State) (k : BankId) [Decidable s.drained] :
    s.drainIfDone.banks.refs k = s.banks.refs k ∧ s.drainIfDone.banks.state k = s.banks.state k ∧
      s.drainIfDone.banks.pendingSwitch = if s.drained then none else s.banks.pendingSwitch := by
  split
  case isTrue h =>
    obtain ⟨-, -, -, hbanks, -⟩ := drainIfDone_done s h
    rw [hbanks]
    cases k <;> exact ⟨rfl, rfl, rfl⟩
  case isFalse h =>
    rw [drainIfDone_not s h]
    exact ⟨rfl, rfl, rfl⟩

theorem anyInUse_eq_false_iff : s.anyInUse = false ↔ ∀ j : Fin 64, s.boards[j].state = .free := by
  simp [State.anyInUse, Board.inUse]

theorem entry_of_line_none {n : Half} (h : s.lugLine[lugIndex n] = none) : s.entry n = none := by
  rw [State.entry, h]

theorem get_set_if_self {α : Type} {n : Nat} {c : Prop} [Decidable c] {xs : Vector α n} {i : Fin n} {x : α} :
    (if c then xs.set i x else xs)[i] = if c then x else xs[i] := by
  split
  · exact get_set_self _ _ _
  · rfl

theorem get_set_if_ne {α : Type} {n : Nat} {c : Prop} [Decidable c] {xs : Vector α n} {i j : Fin n} {x : α} (h : i ≠ j) :
    (if c then xs.set i x else xs)[j] = xs[j] := by
  split
  · exact get_set_ne h
  · rfl

/-! ### The lug at sort -/

/-- The line once the board of a lug is sorted and its entry gone, before the drain may complete. -/
def State.lugSorted (s : State) (lug : Half) (i : Fin 64) : State := (s.sortBoard i).setEntry lug none

theorem lugSorted_only (s : State) (lug : Half) (i : Fin 64) :
    OnlyChanges [.lugLine, .boards, .bins, .sortRing, .runs, .stats, .banks, .notices, .stamps, .publications] s
      (s.lugSorted lug i) :=
  (setEntry_frame _ _ (by simp)).mpr ((sortBoard_only s i).mono (by simp))

theorem lugSorted_eq (s : State) (lug : Half) (i : Fin 64) : s.lugSorted lug i =
    (s.sortInto i (s.binFor s.boards[i].bank s.boards[i].committedPlan).1
      (s.binFor s.boards[i].bank s.boards[i].committedPlan).2).setEntry lug none := rfl

theorem lugSorted_lugLine (s : State) (lug : Half) (i : Fin 64) :
    (s.lugSorted lug i).lugLine = s.lugLine.set (lugIndex lug) none := by
  rw [State.lugSorted, State.setEntry_lugLine, sortBoard_only s i .lugLine (by simp)]

theorem lugSorted_boards (s : State) (lug : Half) (i : Fin 64) :
    (s.lugSorted lug i).boards = s.boards.set i
      { s.boards[i] with
        state := .free
        committed := some { s.boards[i].committedPlan with
          bin := some (s.binFor s.boards[i].bank s.boards[i].committedPlan).1 } } := by
  rw [lugSorted_eq, State.setEntry_boards, sortInto_boards]

theorem lugSorted_stamp_stats (s : State) (lug : Half) (i : Fin 64) :
    (s.lugSorted lug i).stamp .stats = s.stamp .stats := by
  have hkept : ((s.sortBoard i).setEntry lug none).stamp .stats = (s.sortBoard i).stamp .stats :=
    ((setEntry_frame (T := [.lugLine]) lug none (by simp)).mpr (.refl _ _)).stamp (by simp) _
  exact hkept.trans (sortBoard_stamp_stats s i)

/-- R5: in DRAIN the drain is done when no other board is in use and no log is open. -/
theorem lugSorted_drained (s : State) (lug : Half) (i : Fin 64) : (s.lugSorted lug i).drained ↔
    s.lineState = .drain ∧ s.logUnit.openLog = none ∧ ∀ j : Fin 64, j ≠ i → s.boards[j].state = .free := by
  have hline : (s.lugSorted lug i).lineState = s.lineState := lugSorted_only s lug i .lineState (by simp)
  have hlog : (s.lugSorted lug i).logUnit = s.logUnit := lugSorted_only s lug i .logUnit (by simp)
  have hboards : (s.lugSorted lug i).anyInUse = false ↔ ∀ j : Fin 64, j ≠ i → s.boards[j].state = .free := by
    rw [anyInUse_eq_false_iff, lugSorted_boards]
    refine forall_congr' fun j => ?_
    by_cases hj : j = i
    · rw [hj, get_set_self]
      exact iff_of_true rfl fun h => absurd rfl h
    · rw [get_set_ne (Ne.symm hj)]
      exact ⟨fun h _ => h, fun h => h hj⟩
  rw [State.drained, hline, hlog, hboards]
  exact and_congr Iff.rfl and_comm

/-- The notices of a sort, of its drain apart (R60, R128 to R130, R175). -/
theorem lugSorted_notices (s : State) (lug : Half) (i : Fin 64) :
    let b := s.boards[i]
    let p := b.committedPlan
    let n := (s.binFor b.bank p).1
    let code := (s.binFor b.bank p).2
    let count := satAdd s.bins[n].count 1
    let full := s.reachesCapacity n count
    let old := s.sortRing[ringSlot b.lug]
    let closes := fun r : Fin 8 => decide (s.runs.slots[r].state = .finishing ∧ s.runs.slots[r].inLine ≤ 1)
    let released : Bool := decide (s.banks.state b.bank = .held ∧ s.banks.refs b.bank ≤ 1)
    (s.lugSorted lug i).notices =
      (s.forEach
        ((if code = 3 then [.binOverflow b.lug (matrixBin s.shadow b.bank p).val] else []) ++
          (if full then [.binFull n.val count] else []) ++
          (if old.state = .written then [.sortOverrun old.lug b.lug] else []) ++
          ((s.runOf b.run).toList.filterMap fun r =>
            if closes r then some (Notice.runClosed s.runs.slots[r].number r.val) else none) ++
          (if released then [.bankReleased b.bank b.lug] else [])) State.raise).notices := by
  intro b p n code count full old closes released
  obtain ⟨-, -, -, -, hnotices⟩ := sortInto_rest s i n code
  rw [lugSorted_eq, State.setEntry_notices]
  refine hnotices.trans ?_
  clear hnotices
  congr 4
  · cases s.runOf b.run with
    | none => rfl
    | some r =>
      have hcloses : closes r = true ↔
          (s.runs.slots[r].addSorted p.grade p.lc p.value p.footage).closes = true := by
        rw [addSorted_closes]
        exact decide_eq_true_iff
      simp only [Option.toList_some, List.filterMap_cons, List.filterMap_nil, hcloses]
      split <;> rfl
  · have hreleased : (s.banks.state b.bank = .held ∧ s.banks.refs b.bank - 1 = 0) ↔ released = true := by
      rw [decide_eq_true_iff]
      exact and_congr Iff.rfl (by omega)
    exact propext hreleased

/-- The bin gains a piece, the sort record is written (R129, R130). -/
theorem lugSorted_bin_record (s : State) (lug : Half) (i : Fin 64) :
    let b := s.boards[i]
    let p := b.committedPlan
    let n := (s.binFor b.bank p).1
    let code := (s.binFor b.bank p).2
    let count := satAdd s.bins[n].count 1
    (s.lugSorted lug i).bins = s.bins.set n
      { s.bins[n] with
        count := count
        lifetime := satAdd s.bins[n].lifetime 1
        state := if s.reachesCapacity n count then .full else s.bins[n].state } ∧
    (s.lugSorted lug i).sortRing =
      s.sortRing.set (ringSlot b.lug) ⟨.written, b.lug, true, n.val, p.grade, p.lc, p.wc, code⟩ := by
  intro b p n code count
  rw [lugSorted_eq, State.setEntry_bins, State.setEntry_sortRing, sortInto_bins, fillBin_bins, sortInto_sortRing]
  exact ⟨rfl, rfl⟩

/-- The run of a sorted board: its tally and its boards in line, and CLOSED where the board was its last (R60, R138,
R140). -/
theorem lugSorted_runs (s : State) (lug : Half) (i : Fin 64) :
    let b := s.boards[i]
    let p := b.committedPlan
    (s.runOf b.run = none → (s.lugSorted lug i).runs = s.runs) ∧
    ∀ r, s.runOf b.run = some r →
      let x := s.runs.slots[r]
      (s.lugSorted lug i).runs = { s.runs with
        slots := s.runs.slots.set r
          { x with
            state := if x.state = .finishing ∧ x.inLine ≤ 1 then .closed else x.state
            inLine := x.inLine - 1
            tally := (x.addSorted p.grade p.lc p.value p.footage).tally } } := by
  intro b p
  obtain ⟨-, -, hnone, hsome, -⟩ := sortInto_rest s i (s.binFor b.bank p).1 (s.binFor b.bank p).2
  rw [lugSorted_eq, State.setEntry_runs]
  refine ⟨hnone, fun r hr => ?_⟩
  have hruns := hsome r hr
  have hcloses := addSorted_closes (x := s.runs.slots[r]) (g := p.grade) (lc := p.lc) (v := p.value) (f := p.footage)
  refine Eq.trans hruns ?_
  by_cases h : s.runs.slots[r].state = .finishing ∧ s.runs.slots[r].inLine ≤ 1
  · rw [if_pos (hcloses.mpr h), if_pos h]
    rfl
  · rw [if_neg (hcloses.not.mpr h), if_neg h]
    rfl

/-- The bank of a sorted board has one reference less, and HELD with none left it is SPARE (R170, R175). -/
theorem lugSorted_banks (s : State) (lug : Half) {i : Fin 64} {k : BankId} (hk : s.boards[i].bank = k) :
    (s.lugSorted lug i).banks.refs k = s.banks.refs k - 1 ∧
    (s.lugSorted lug i).banks.refs k.other = s.banks.refs k.other ∧
    (s.lugSorted lug i).banks.state k =
      (if s.banks.state k = .held ∧ s.banks.refs k ≤ 1 then .spare else s.banks.state k) ∧
    (s.lugSorted lug i).banks.state k.other = s.banks.state k.other ∧
    (s.lugSorted lug i).banks.pendingSwitch = s.banks.pendingSwitch := by
  subst hk
  have hreleased : s.banks.refs s.boards[i].bank - 1 = 0 ↔ s.banks.refs s.boards[i].bank ≤ 1 := Nat.sub_eq_zero_iff_le
  obtain ⟨-, ⟨hrefs, hother, hstate, hrest⟩, -⟩ := sortInto_rest s i
    (s.binFor s.boards[i].bank s.boards[i].committedPlan).1 (s.binFor s.boards[i].bank s.boards[i].committedPlan).2
  rw [lugSorted_eq, State.setEntry_banks]
  exact ⟨hrefs, hother, hstate.trans (if_congr (and_congr Iff.rfl hreleased) rfl rfl), hrest⟩

/-- The counters of overflows and of overruns (R128, R130). -/
theorem lugSorted_stats (s : State) (lug : Half) (i : Fin 64) :
    let b := s.boards[i]
    let code := (s.binFor b.bank b.committedPlan).2
    let t := s.lugSorted lug i
    t.stats[(20 : Fin 24)] =
      (if s.sortRing[ringSlot b.lug].state = .written then satAdd s.stats[(20 : Fin 24)] 1 else s.stats[(20 : Fin 24)]) ∧
    t.stats[(21 : Fin 24)] = (if code = 3 then satAdd s.stats[(21 : Fin 24)] 1 else s.stats[(21 : Fin 24)]) ∧
    ∀ k : Fin 24, k ∉ [(20 : Fin 24), 21] → t.stats[k] = s.stats[k] := by
  intro b code t
  obtain ⟨hstats, -⟩ := sortInto_rest s i (s.binFor b.bank b.committedPlan).1 code
  have hset : t.stats = (s.sortInto i (s.binFor b.bank b.committedPlan).1 code).stats :=
    (congrArg State.stats (lugSorted_eq s lug i)).trans (State.setEntry_stats _ _ _)
  rw [hset, hstats]
  have hne : (21 : Fin 24) ≠ 20 := by decide
  refine ⟨?_, ?_, fun k hk => ?_⟩
  · exact (get_set_if_self (i := (20 : Fin 24))).trans
      (if_congr Iff.rfl (congrArg (satAdd · 1) (get_set_if_ne hne)) (get_set_if_ne hne))
  · exact (get_set_if_ne hne.symm).trans (get_set_if_self (i := (21 : Fin 24)))
  · have h20 : (20 : Fin 24) ≠ k := fun h => hk (by simp [← h])
    have h21 : (21 : Fin 24) ≠ k := fun h => hk (by simp [← h])
    exact (get_set_if_ne h20).trans (get_set_if_ne h21)

end Sys2Proof.Machine

namespace Sys2Proof.Proofs
open Sys2Proof.Machine

/-- Settles O12: the sort of the board and the leaving of its entry, and then the completion of the drain. -/
theorem sortOfBoard : Obligations.SortOfBoard := by
  intro s lug e he
  refine ⟨fun i hi => ?_, fun hempty => ?_⟩
  · intro b p n code count full old closes released done closed dropped
    obtain ⟨u, hu⟩ : ∃ u, u = s.lugSorted lug i := ⟨_, rfl⟩
    have ht : s.sortLug lug = u.drainIfDone := by
      rw [hu]
      exact sortLug_board he hi
    have hdrained : u.drained ↔ done = true := by
      rw [hu, lugSorted_drained, decide_eq_true_iff]
    have honly : OnlyChanges [.lugLine, .boards, .bins, .sortRing, .runs, .stats, .banks, .notices, .stamps, .publications]
        s u := hu ▸ lugSorted_only s lug i
    have hafter := drainIfDone_only u
    have hlugs : u.lugLine = s.lugLine.set (lugIndex lug) none := hu ▸ lugSorted_lugLine s lug i
    have hboards : u.boards = s.boards.set i { b with state := .free, committed := some { p with bin := some n } } :=
      hu ▸ lugSorted_boards s lug i
    obtain ⟨hbins, hring⟩ := lugSorted_bin_record s lug i
    obtain ⟨hrunsNone, hrunsSome⟩ := lugSorted_runs s lug i
    obtain ⟨hrefs, hrefsOther, hstate, hstateOther, hpending⟩ := lugSorted_banks s lug (i := i) rfl
    have hstats := lugSorted_stats s lug i
    have hnotices := lugSorted_notices s lug i
    have hstamp : u.stamp .stats = s.stamp .stats := hu ▸ lugSorted_stamp_stats s lug i
    rw [← hu] at hbins hring hrunsNone hrunsSome hrefs hrefsOther hstate hstateOther hpending hstats hnotices
    have hruns : u.drainIfDone.runs = u.runs := hafter .runs (by simp)
    classical
    obtain ⟨hrefsKept, hstateKept, hpendingDone⟩ := drainIfDone_banks u b.bank
    obtain ⟨hrefsOtherKept, hstateOtherKept, -⟩ := drainIfDone_banks u b.bank.other
    rw [ht]
    refine ⟨?_, ?_, ?_, ?_, ?_, ?_, ⟨?_, ?_, ?_, ?_, ?_⟩, ?_, ?_, ?_, ?_⟩
    · refine entry_of_line_none ?_
      by_cases h : u.drained
      · obtain ⟨-, hline, -⟩ := drainIfDone_done u h
        rw [hline]
        exact Vector.getElem_replicate _
      · rw [drainIfDone_not u h, hlugs, get_set_self]
    · exact Eq.trans (hafter .boards (by simp)) hboards
    · exact Eq.trans (hafter .bins (by simp)) hbins
    · exact Eq.trans (hafter .sortRing (by simp)) hring
    · exact fun hnone => hruns.trans (hrunsNone hnone)
    · intro r hr g hg x matrix
      have hslot : matrix = (x.addSorted p.grade p.lc p.value p.footage).tally.matrix := by
        have hset : u.drainIfDone.runs.slots[r].tally = (x.addSorted p.grade p.lc p.value p.footage).tally := by
          rw [hruns, hrunsSome r hr, get_set_self]
        exact congrArg Tally.matrix hset
      refine ⟨hruns.trans ((hrunsSome r hr).trans ?_), fun hfall => ?_, fun k hne hlow _ hk => ?_⟩
      · rw [addSorted_tally x hg, ← hslot]
        simp only [closes, decide_eq_true_eq]
        rfl
      · rw [hslot]
        exact addSorted_matrix_of_fallDown x _ _ _ (by omega)
      · rw [hslot]
        exact addSorted_matrix_of_grade x (by omega) (by omega)
    · exact hrefsKept.trans hrefs
    · exact hrefsOtherKept.trans hrefsOther
    · exact (hstateKept.trans hstate).trans (if_congr decide_eq_true_iff.symm rfl rfl)
    · exact hstateOtherKept.trans hstateOther
    · exact hpendingDone.trans (if_congr hdrained rfl hpending)
    · rw [show u.drainIfDone.stats = u.stats from hafter .stats (by simp)]
      exact hstats
    · refine raised_after hnotices (honly .routes (by simp)) ((drainIfDone_notices u).trans ?_)
      have hraised : (if u.drained then u.drainNotices else []) =
          if done then dropped ++ [.lineIdle s.lc] else [] := by
        have hlc : u.lc = s.lc := honly .lc (by simp)
        rw [State.drainNotices, hpending, hlc]
        exact if_congr hdrained rfl rfl
      rw [hraised]
    · intro hnot
      rw [drainIfDone_not u fun h => Bool.false_ne_true (hnot.symm.trans (hdrained.mp h))]
      exact ⟨hlugs, honly⟩
    · intro hdone
      obtain ⟨hidle, hline, hheld, -, -, hpublished, -⟩ := drainIfDone_done u (hdrained.mpr hdone)
      have hrest : u.path.initialRest = s.path.initialRest := honly .initialRest (by simp)
      refine ⟨hidle, fun k => ?_, hheld, fun hinitial => ?_, (honly.mono (by simp)).trans (hafter.mono (by simp))⟩
      · rw [hline]
        exact Vector.getElem_replicate _
      · rw [hpublished (hrest.trans hinitial), hstamp]
  · rw [sortLug_empty he hempty]
    have honly := writeSort_only s lug ⟨.written, lug, false, 0, 0, 0, 0, 0⟩
    have hstats := writeSort_stats s lug ⟨.written, lug, false, 0, 0, 0, 0, 0⟩
    have hnotices := writeSort_notices s lug ⟨.written, lug, false, 0, 0, 0, 0, 0⟩
    refine ⟨?_, ?_, fun hold => ⟨?_, ?_⟩, fun hold => ?_, ?_⟩
    · rw [State.setEntry_lugLine, honly .lugLine (by simp)]
    · rw [State.setEntry_sortRing, writeSort_sortRing]
    · rw [State.setEntry_stats, hstats, if_pos hold]
    · rw [State.setEntry_notices, hnotices, if_pos hold]
      rfl
    · refine (setEntry_frame _ _ (by simp)).mpr ?_
      rw [State.writeSort, if_neg hold]
      exact (publish_frame _ _ (by simp)).mpr ((setSort_frame _ _ (by simp)).mpr (.refl _ _))
    · exact (setEntry_frame _ _ (by simp)).mpr (honly.mono (by simp))

end Sys2Proof.Proofs
end

section
/-! Frame arrivals and their checks (R20 to R26, R28, R30 to R32, R41). -/

namespace Sys2Proof.Machine

variable {s t u : State} {h : Fin 9} {slot : Fin 16} {f : Frame} {i : Fin 64} {lug n : Half}

/-! ### The close of a lug leaves the others (R12, R41) -/

theorem entry_eq_some_iff {e : LugEntry} : s.entry n = some e ↔ s.lugLine[lugIndex n] = some e ∧ e.lug = n := by
  unfold State.entry
  split
  case h_1 x hx =>
    rw [hx]
    split
    case isTrue hlug => exact ⟨fun hsome => ⟨hsome, Option.some.inj hsome ▸ hlug⟩, fun hsome => hsome.1⟩
    case isFalse hlug => exact ⟨nofun, fun hsome => absurd (Option.some.inj hsome.1 ▸ hsome.2) hlug⟩
  case h_2 hnone =>
    rw [hnone]
    exact ⟨nofun, fun hsome => nomatch hsome.1⟩

/-- The line holds both entries at once, so they stand at different indices. -/
theorem entry_setEntry_ne {e x : LugEntry} {y : Option LugEntry} (he : s.entry n = some e) (hx : s.entry lug = some x)
    (hne : lug ≠ n) : (s.setEntry lug y).entry n = some e := by
  obtain ⟨hn, hlug⟩ := entry_eq_some_iff.mp he
  obtain ⟨hline, hxlug⟩ := entry_eq_some_iff.mp hx
  have hindex : lugIndex lug ≠ lugIndex n := fun hsame => by
    have hsome : some e = some x := by
      simp only [← hn, ← hline, hsame]
    exact hne (hxlug.symm.trans (Option.some.inj hsome ▸ hlug))
  refine entry_eq_some_iff.mpr ⟨?_, hlug⟩
  rw [State.setEntry_lugLine, get_set_ne hindex]
  exact hn

theorem closeBoard_state_ne (s : State) (i : Fin 64) : (s.closeBoard i).boards[i].state ≠ .measuring := by
  obtain ⟨hshared, hreserved, hwaits⟩ := closeBoard_request (s := s) (i := i)
  by_cases hroom : s.solver.shared.length < 6
  · rw [(hshared hroom).1]
    exact nofun
  · by_cases hfree : s.solver.reservedFirst = none
    · rw [(hreserved (by omega) hfree).1]
      exact nofun
    · rw [(hwaits (by omega) hfree).1]
      exact nofun

theorem reduce_gradeCells_lug (b : Board) (m : List Host.Cell) : (b.reduce.gradeCells m).lug = b.lug := by
  simp only [Board.gradeCells, Board.reduce]

theorem closeBoard_board (s : State) (i j : Fin 64) : (s.closeBoard i).boards[j].lug = s.boards[j].lug ∧
    ((s.closeBoard i).boards[j].state ≠ .measuring ∨ (s.closeBoard i).boards[j].state = s.boards[j].state) := by
  obtain ⟨x, hboards⟩ := closeBoard_boards s i
  by_cases hj : i = j
  · subst hj
    refine ⟨?_, .inl (closeBoard_state_ne s i)⟩
    rw [hboards, get_set_self]
    dsimp only
    rw [reduce_gradeCells_lug]
  · rw [hboards, get_set_ne hj]
    exact ⟨rfl, .inr rfl⟩

/-- Of the counters a close changes those of the credits alone (R82, R83). -/
theorem closeLug_stats (s : State) (lug : Half) {k : Fin 24} (hwait : k ≠ 13) (huse : k ≠ 14) :
    (s.closeLug lug).stats[k] = s.stats[k] := by
  cases he : s.entry lug with
  | none => rw [closeLug_none he]
  | some e =>
    by_cases hclosed : e.closed = true
    · rw [closeLug_closed he hclosed]
    · have hopen : e.closed = false := Bool.not_eq_true _ ▸ hclosed
      cases hboard : e.board with
      | none =>
        rw [closeLug_empty he hopen hboard]
        have honly : OnlyChanges [.notices, .stamps, .publications] (s.setEntry lug _)
            ((s.setEntry lug (some { e with closed := true, override := none })).closeEmpty lug e.override) :=
          (closeEmpty_frame lug e.override (by simp)).mpr (.refl _ _)
        exact congrArg (fun xs : Vector Word 24 => xs[k]) (honly .stats (by simp))
      | some i =>
        rw [closeLug_board he hopen hboard]
        obtain ⟨hshared, hreserved, hwaits⟩ :=
          closeBoard_request (s := s.setEntry lug (some { e with closed := true })) (i := i)
        by_cases hroom : s.solver.shared.length < 6
        · rw [(hshared hroom).2.2]
          rfl
        · by_cases hfree : s.solver.reservedFirst = none
          · rw [(hreserved (Nat.le_of_not_lt hroom) hfree).2.2]
            exact get_set_ne (i := (14 : Fin 24)) huse.symm
          · rw [(hwaits (Nat.le_of_not_lt hroom) hfree).2.1]
            exact get_set_ne (i := (13 : Fin 24)) hwait.symm

/-- The board in slot i is that of lug n, and is no longer MEASURING once the lug is closed. -/
structure State.ClosesWith (s : State) (i : Fin 64) (n : Half) (e : LugEntry) : Prop where
  lug : s.boards[i].lug = n
  entry : s.entry n = some e
  board : e.board = some i
  closed : e.closed = true → s.boards[i].state ≠ .measuring

/-- Any close keeps this, and the lug's own close closes it. -/
theorem State.ClosesWith.closeLug {e : LugEntry} (hw : s.ClosesWith i n e) (lug : Half) :
    ∃ x, (s.closeLug lug).ClosesWith i n x ∧ ((e.closed = true ∨ lug = n) → x.closed = true) := by
  obtain ⟨hlug, hentry, hboard, hclosed⟩ := hw
  cases hx : s.entry lug with
  | none =>
    rw [closeLug_none hx]
    refine ⟨e, ⟨hlug, hentry, hboard, hclosed⟩, fun hor => hor.resolve_right fun heq => ?_⟩
    exact Option.some_ne_none e (hentry.symm.trans (heq ▸ hx))
  | some x =>
    by_cases hxclosed : x.closed = true
    · rw [closeLug_closed hx hxclosed]
      refine ⟨e, ⟨hlug, hentry, hboard, hclosed⟩, fun hor => hor.elim id fun heq => ?_⟩
      have hsome : e = x := Option.some.inj (hentry.symm.trans (heq ▸ hx))
      exact hsome ▸ hxclosed
    · have hopen : x.closed = false := Bool.not_eq_true _ ▸ hxclosed
      cases hxboard : x.board with
      | none =>
        have hne : lug ≠ n := fun heq => by
          have hsome : e = x := Option.some.inj (hentry.symm.trans (heq ▸ hx))
          exact Option.some_ne_none i (hboard.symm.trans (hsome ▸ hxboard))
        have honly : OnlyChanges [.notices, .stamps, .publications] (s.setEntry lug _)
            ((s.setEntry lug (some { x with closed := true, override := none })).closeEmpty lug x.override) :=
          (closeEmpty_frame lug x.override (by simp)).mpr (.refl _ _)
        have hboards : (s.closeLug lug).boards = s.boards := by
          rw [closeLug_empty hx hopen hxboard]
          exact honly .boards (by simp)
        refine ⟨e, ⟨by rwa [hboards], ?_, hboard, by rwa [hboards]⟩, fun hor => hor.resolve_right hne⟩
        rw [closeLug_empty hx hopen hxboard, entry_congr (honly .lugLine (by simp))]
        exact entry_setEntry_ne hentry hx hne
      | some j =>
        rw [closeLug_board hx hopen hxboard]
        obtain ⟨hlugKept, hstate⟩ := closeBoard_board (s.setEntry lug (some { x with closed := true })) j i
        have hline : ((s.setEntry lug (some { x with closed := true })).closeBoard j).lugLine =
            (s.setEntry lug (some { x with closed := true })).lugLine :=
          (closeBoard_frame j (by simp)).mpr
            (.refl [.boards, .solver, .stats, .notices, .stamps, .publications] _) .lugLine (by simp)
        by_cases heq : lug = n
        · have hsome : e = x := Option.some.inj (hentry.symm.trans (heq ▸ hx))
          have hij : j = i := Option.some.inj (hxboard.symm.trans (hsome ▸ hboard))
          subst hij
          refine ⟨{ x with closed := true }, ⟨hlugKept.trans hlug, ?_, hxboard, fun _ => closeBoard_state_ne _ _⟩,
            fun _ => rfl⟩
          rw [entry_congr hline, ← heq]
          exact entry_setEntry_self (e := { x with closed := true }) (show x.lug = lug from entry_lug hx)
        · refine ⟨e, ⟨hlugKept.trans hlug, ?_, hboard, fun hyes => ?_⟩, fun hor => hor.resolve_right heq⟩
          · rw [entry_congr hline]
            exact entry_setEntry_ne hentry hx heq
          · exact hstate.elim id fun hsame => hsame ▸ hclosed hyes

theorem State.ClosesWith.forEach {e : LugEntry} (hw : s.ClosesWith i n e) (js : List (Fin 64)) :
    ∃ x, (s.forEach js fun v j => v.closeLug v.boards[j].lug).ClosesWith i n x ∧
      ((e.closed = true ∨ i ∈ js) → x.closed = true) := by
  induction js generalizing s e with
  | nil => exact ⟨e, hw, fun hor => hor.resolve_right List.not_mem_nil⟩
  | cons j js ih =>
    obtain ⟨x, hx, hclosed⟩ := hw.closeLug s.boards[j].lug
    obtain ⟨y, hy, hafter⟩ := ih hx
    refine ⟨y, hy, fun hor => ?_⟩
    rcases hor with hyes | hmem
    · exact hafter (.inl (hclosed (.inl hyes)))
    · rcases List.mem_cons.mp hmem with rfl | hmem
      · exact hafter (.inl (hclosed (.inr hw.lug)))
      · exact hafter (.inr hmem)

/-- The boards that the early close test finds ready, oldest lug first (R41). -/
def State.readyBoards (s : State) : List (Fin 64) :=
  s.boardsByAge fun b => decide (b.state = .measuring) && s.readyForClose b

theorem mem_readyBoards : i ∈ s.readyBoards ↔ s.boards[i].state = .measuring ∧ s.readyForClose s.boards[i] = true := by
  rw [State.readyBoards, (boardsByAge_spec s _).2, Bool.and_eq_true, decide_eq_true_iff]

theorem earlyCloseAll_of_none
    (hnone : ∀ i : Fin 64, s.boards[i].state = .measuring → s.readyForClose s.boards[i] = false) :
    s.earlyCloseAll = s := by
  have hempty : s.readyBoards = [] := List.eq_nil_iff_forall_not_mem.mpr fun i hi => by
    obtain ⟨hstate, hready⟩ := mem_readyBoards.mp hi
    exact Bool.false_ne_true ((hnone i hstate).symm.trans hready)
  exact congrArg (fun js => s.forEach js fun v j => v.closeLug v.boards[j].lug) hempty

theorem earlyCloseAll_stats (s : State) {k : Fin 24} (hwait : k ≠ 13) (huse : k ≠ 14) :
    s.earlyCloseAll.stats[k] = s.stats[k] := by
  have hall : ∀ (js : List (Fin 64)) (v : State),
      (v.forEach js fun v j => v.closeLug v.boards[j].lug).stats[k] = v.stats[k] := fun js => by
    induction js with
    | nil => exact fun _ => rfl
    | cons j js ih => exact fun v => (ih _).trans (closeLug_stats v _ hwait huse)
  exact hall s.readyBoards s

/-- R41: each MEASURING board that is ready is closed, with its lug. -/
theorem earlyCloseAll_closes {e : LugEntry} (hstate : s.boards[i].state = .measuring)
    (hready : s.readyForClose s.boards[i] = true) (he : s.entry s.boards[i].lug = some e) (hboard : e.board = some i)
    (hopen : e.closed = false) :
    s.earlyCloseAll.boards[i].state ≠ .measuring ∧
      (s.earlyCloseAll.entry s.boards[i].lug).map LugEntry.closed = some true := by
  have hw : s.ClosesWith i s.boards[i].lug e :=
    ⟨rfl, he, hboard, fun hclosed => absurd (hopen.symm.trans hclosed) Bool.false_ne_true⟩
  obtain ⟨x, hx, hclosed⟩ := hw.forEach s.readyBoards
  have hdone := hclosed (.inr (mem_readyBoards.mpr ⟨hstate, hready⟩))
  exact ⟨hx.closed hdone, (congrArg (Option.map LugEntry.closed) hx.entry).trans (congrArg some hdone)⟩

/-! ### The flags of a head (R22 to R26) -/

theorem setHeadFlag_only (s : State) (h : Fin 9) (slot : Fin 16) (k : HeadFlag) :
    OnlyChanges [.heads, .stats, .notices, .stamps, .publications] s (s.setHeadFlag h slot k) :=
  (setHeadFlag_frame h slot k (by simp)).mpr (.refl _ _)

theorem setHeadFlag_spec (s : State) (h : Fin 9) (slot : Fin 16) (k : HeadFlag) :
    (s.setHeadFlag h slot k).heads = s.heads.set h ((s.heads[h].setFlag k).bump k.counter) ∧
    (s.setHeadFlag h slot k).stats = s.stats.set k.stat.index (satAdd s.stats[k.stat.index] 1) ∧
    (s.setHeadFlag h slot k).notices =
      (if s.heads[h].flag k then s else s.raise (.headError h.val k slot.val)).notices := by
  unfold State.setHeadFlag
  dsimp only
  split
  · exact ⟨rfl, rfl, rfl⟩
  · refine ⟨raise_heads _ _, raise_stats _ _, raise_notices_congr ?_ ?_ _⟩ <;> rfl

theorem failFrame_stays {k : HeadFlag} (hstays : h = 8 ∨ s.heads[h].blocked = true ∨
    ∀ i : Fin 64, s.boards[i].state = .measuring → (s.setHeadFlag h slot k).readyForClose s.boards[i] = false) :
    s.failFrame h slot k = s.setHeadFlag h slot k := by
  have hboards : (s.setHeadFlag h slot k).boards = s.boards := setHeadFlag_only s h slot k .boards (by simp)
  unfold State.failFrame
  dsimp only
  rcases hstays with hlog | hblocked | hnone
  · exact if_pos (by simp [hlog])
  · exact if_pos (Bool.or_eq_true_iff.mpr (.inl hblocked))
  · rw [earlyCloseAll_of_none (by rwa [hboards]), ite_self]

theorem failFrame_closes {k : HeadFlag} (hlog : h ≠ 8) (hblocked : s.heads[h].blocked = false) :
    s.failFrame h slot k = (s.setHeadFlag h slot k).earlyCloseAll :=
  if_neg (by rw [hblocked, Bool.false_or, decide_eq_true_iff]; exact hlog)

theorem failFrame_keeps {k : HeadFlag} {j : Fin 24} (hwait : j ≠ 13) (huse : j ≠ 14) :
    (s.failFrame h slot k).heads = (s.setHeadFlag h slot k).heads ∧
      (s.failFrame h slot k).stats[j] = (s.setHeadFlag h slot k).stats[j] := by
  unfold State.failFrame
  dsimp only
  split
  · exact ⟨rfl, rfl⟩
  · exact ⟨(earlyCloseAll_frame (by simp)).mpr
      (.refl [.lugLine, .boards, .solver, .stats, .notices, .stamps, .publications] _) .heads (by simp),
      earlyCloseAll_stats _ hwait huse⟩

theorem readyForClose_congr (hheads : t.heads = u.heads) (hconfig : t.config = u.config) (b : Board) :
    t.readyForClose b = u.readyForClose b := by
  unfold State.readyForClose State.slicesPerLug
  rw [hheads, hconfig]

/-! ### The checks of an arrival -/

theorem settleArrival_bad_form {written : BitVec 4} (hform : f.formed h written = false) :
    s.settleArrival h slot f written = s.failFrame h slot .frame := if_pos hform

theorem settleArrival_bad_sum {written : BitVec 4} (hform : f.formed h written = true) (hsum : f.checksum ≠ f.sum) :
    s.settleArrival h slot f written = s.failFrame h slot .chk :=
  (if_neg (by rw [hform]; exact Bool.noConfusion)).trans (if_pos hsum)

theorem settleArrival_passed {written : BitVec 4} (hform : f.formed h written = true) (hsum : f.checksum = f.sum) :
    s.settleArrival h slot f written =
      if s.heads[h].blocked then s.countFrame h .skipped else (s.checkSequence h slot f).settleGood h f :=
  (if_neg (by rw [hform]; exact Bool.noConfusion)).trans (if_neg (not_not.mpr hsum))

theorem checkSequence_only (s : State) (h : Fin 9) (slot : Fin 16) (f : Frame) :
    OnlyChanges [.heads, .stats, .notices, .stamps, .publications] s (s.checkSequence h slot f) :=
  (checkSequence_frame h slot f (by simp)).mpr (.refl _ _)

/-- R24: the sequence check of a good frame. -/
theorem checkSequence_spec (s : State) (h : Fin 9) (slot : Fin 16) (f : Frame) :
    let x := s.heads[h]
    let u := s.checkSequence h slot f
    let gap : Bool := x.expected.any fun e => decide (e ≠ f.seq)
    u.heads = s.heads.set h
      { (if gap then Head.bump { x with gap := true } .gapCount else x) with expected := some (f.seq + 1) } ∧
    u.stats = (if gap then s.stats.set (9 : Fin 24) (satAdd s.stats[(9 : Fin 24)] 1) else s.stats) ∧
    u.notices = (if gap && !x.gap then s.raise (.headError h.val .gap slot.val) else s).notices := by
  intro x u gap
  obtain ⟨hheads, hstats, hnotices⟩ := setHeadFlag_spec s h slot .gap
  have hu : u = (if gap then s.setHeadFlag h slot .gap else s).setHead h
      { (if gap then s.setHeadFlag h slot .gap else s).heads[h] with expected := some (f.seq + 1) } := rfl
  cases hgap : gap with
  | false =>
    rw [hu, hgap]
    exact ⟨rfl, rfl, rfl⟩
  | true =>
    rw [hu, hgap]
    refine ⟨?_, hstats, ?_⟩
    · dsimp only [State.setHead]
      simp only [if_true, hheads, get_set_self, Vector.set_set]
      rfl
    · refine Eq.trans hnotices ?_
      show (if x.gap = true then _ else _ : State).notices = _
      cases x.gap <;> rfl

theorem settleGood_disabled (hdisabled : s.heads[h].enabled = false) : s.settleGood h f = s.countFrame h .skipped :=
  if_pos hdisabled

theorem settleGood_board {h : Fin 8} {k : Fin 9} (hk : k.val = h.val) (henabled : s.heads[k].enabled = true) :
    s.settleGood k f = (s.lugWindow h f).1.countFrame k (s.lugWindow h f).2 := by
  have hlt : k.val < 8 := hk ▸ h.isLt
  have hhead : (⟨k.val, hlt⟩ : Fin 8) = h := Fin.ext hk
  rw [← hhead]
  exact (if_neg (by rw [henabled]; exact Bool.noConfusion)).trans (dif_pos hlt)

/-! ### The arrival as a write (R20, R21) -/

/-- The state in which the frame of a slot is settled: its bytes captured and its marks cleared. -/
def State.arrived (s : State) (o : Nat) (w : BusWrite) (h : Fin 9) (slot : Fin 16) : State :=
  ((s.beginEvent.capturedForward o w).markBlock h slot 3).setHead h
    { ((s.beginEvent.capturedForward o w).markBlock h slot 3).heads[h] with
      marks := ((s.beginEvent.capturedForward o w).markBlock h slot 3).heads[h].marks.set slot 0 }

theorem arrived_only (s : State) (o : Nat) (w : BusWrite) (h : Fin 9) (slot : Fin 16) :
    OnlyChanges [.shadow, .heads, .event, .ports] s (s.arrived o w h slot) :=
  (setHead_frame _ _ (by simp)).mpr
    (((capturedForward_only s o w).mono (by simp)).trans ((markBlock_only _ _ _ _).mono (by simp)))

theorem arrived_shadow (s : State) (o : Nat) (w : BusWrite) (h : Fin 9) (slot : Fin 16) :
    (s.arrived o w h slot).shadow = s.captured o w := by
  have hsettled : OnlyChanges [.heads] (s.beginEvent.capturedForward o w) (s.arrived o w h slot) :=
    (setHead_frame _ _ (by simp)).mpr (markBlock_only _ _ _ _)
  exact Eq.trans (hsettled .shadow (by simp)) (capturedForward_shadow s o w)

theorem arrived_heads (s : State) (o : Nat) (w : BusWrite) (h : Fin 9) (slot : Fin 16) :
    (s.arrived o w h slot).heads = s.heads.set h { s.heads[h] with marks := s.heads[h].marks.set slot 0 } := by
  have hheads : (s.beginEvent.capturedForward o w).heads = s.heads := capturedForward_only s o w .heads (by simp)
  unfold State.arrived State.markBlock State.setHead
  simp only [hheads, get_set_self, Vector.set_set]

theorem marked_marks (s : State) (o : Nat) (w : BusWrite) (h : Fin 9) (slot : Fin 16) :
    ((s.beginEvent.capturedForward o w).markBlock h slot 3).heads[h].marks[slot] = s.heads[h].marks[slot] ||| 8 := by
  have hheads : (s.beginEvent.capturedForward o w).heads = s.heads := capturedForward_only s o w .heads (by simp)
  unfold State.markBlock State.setHead
  simp only [hheads, get_set_self]
  rfl

/-- R20: the write that covers the trailer of a slot. -/
theorem exec_frameArrival {w : BusWrite} {c : Instr} {o : Nat} {al : Bool} (hc : c ∈ writeRows w)
    (hreleased : s.resetLow = false) (hoffset : s.offsetOf w.addr = some (o, al)) (hlo : frameBase h slot + 0xC0 ≤ o)
    (hhi : o + w.bytes.length ≤ frameBase h slot + 0x100)
    (htrailer : covers (enabledBytes o w.bytes) (frameBase h slot + 0xF8) 8 = true) :
    s.captured o w = writeBytes s.shadow (enabledBytes o w.bytes) ∧
    exec c s = .next (((s.arrived o w h slot).settleArrival h slot
      (readFrame (writeBytes s.shadow (enabledBytes o w.bytes)) (frameBase h slot)) (s.heads[h].marks[slot] ||| 8)).publish
        .ingest (.head h)) := by
  have hplace : ∀ x ∈ enabledBytes o w.bytes,
      areaOf x.1 = some .frameRings ∧ frameHead x.1 = h ∧ frameSlot x.1 = slot ∧ frameBlock x.1 = 3 := by
    intro x hx
    have hbounds := mem_enabledBytes hx
    exact frame_place (k := 3) (show frameBase h slot + 64 * 3 ≤ x.1 by omega)
      (show x.1 < frameBase h slot + 64 * (3 + 1) by omega)
  have hall : ((enabledBytes o w.bytes).filter fun x => s.watches x.1) = enabledBytes o w.bytes :=
    List.filter_eq_self.mpr fun x hx => watches_frameRings (hplace x hx).1
  have hcaptured : s.captured o w = writeBytes s.shadow (enabledBytes o w.bytes) := congrArg (writeBytes s.shadow) hall
  have hsome : enabledBytes o w.bytes ≠ [] := fun hnil => by
    rw [hnil] at htrailer
    exact Bool.false_ne_true htrailer
  obtain ⟨x, ys, hcons⟩ := List.exists_cons_of_ne_nil hsome
  obtain ⟨harea, hhead, hslot, hblock⟩ := hplace x (hcons ▸ List.mem_cons_self)
  have hshadow : ((s.beginEvent.capturedForward o w).markBlock h slot 3).shadow =
      writeBytes s.shadow (enabledBytes o w.bytes) :=
    Eq.trans (markBlock_only _ h slot 3 .shadow (by simp)) ((capturedForward_shadow s o w).trans hcaptured)
  refine ⟨hcaptured, ?_⟩
  rw [exec_writeRow hc, upstreamWrite_inside (s := s.beginEvent) hreleased hoffset,
    arenaWrite_free (s := s.beginEvent) fun x hx => guardedArea_frameRings (hplace x hx).1,
    captureWrite_of_cons (s := s.beginEvent) (hall.trans hcons), State.captureEvents, harea, ← hcons]
  have hevents : (s.beginEvent.capturedForward o w).frameEvents x.1 (enabledBytes o w.bytes) =
      ((s.beginEvent.capturedForward o w).markBlock h slot 3).frameArrival h slot := by
    subst hhead hslot
    unfold State.frameEvents
    rw [hblock]
    exact if_pos htrailer
  dsimp only
  rw [hevents, State.frameArrival, hshadow, marked_marks]
  rfl

end Sys2Proof.Machine

namespace Sys2Proof.Proofs

open Sys2Proof.Machine

/-- Settles O17: the arrival as a write, and its checks in their order. -/
theorem frameChecks : Obligations.FrameChecks := by
  refine ⟨fun s w c h slot o al hc hreleased hwf hoffset hlo hhi htrailer => ?_, fun s h k f hk henabled => ?_,
    fun s h slot f written => ?_⟩
  · obtain ⟨hcaptured, hexec⟩ := exec_frameArrival hc hreleased hoffset hlo hhi htrailer
    have hsettled : OnlyChanges [.heads] (s.beginEvent.capturedForward o w) (s.arrived o w h slot) :=
      (setHead_frame _ _ (by simp)).mpr (markBlock_only _ _ _ _)
    exact ⟨_, hexec, (arrived_shadow s o w h slot).trans hcaptured,
      Eq.trans (hsettled .ports (by simp)) (capturedForward_ports s o w), arrived_heads s o w h slot,
      arrived_only s o w h slot⟩
  · intro u outcome t
    have ht : t = u.countFrame k outcome := settleGood_board hk henabled
    rw [ht]
    exact ⟨rfl, rfl, countFrame_only _ _ _⟩
  · intro x t good gap
    refine ⟨fun k y n hcase => ?_, fun hform hsum hblocked => ?_, fun ⟨hform, hsum, hblocked⟩ => ?_⟩
    · have hfails : t = s.failFrame h slot k ∧ y = (x.setFlag k).bump k.counter ∧ n = k.stat.index ∧ n ≠ 13 ∧
          n ≠ 14 := by
        rcases hcase with ⟨rfl, hform, rfl, rfl⟩ | ⟨rfl, hform, hsum, rfl, rfl⟩
        · exact ⟨settleArrival_bad_form hform, rfl, rfl, by decide, by decide⟩
        · exact ⟨settleArrival_bad_sum hform hsum, rfl, rfl, by decide, by decide⟩
      obtain ⟨ht, hy, hn, hwait, huse⟩ := hfails
      obtain ⟨hheads, hstats, hnotices⟩ := setHeadFlag_spec s h slot k
      rw [← hy] at hheads
      simp only [← hn] at hstats
      have hset := setHeadFlag_only s h slot k
      have hboards : (s.setHeadFlag h slot k).boards = s.boards := hset .boards (by simp)
      have hready : ∀ b, (s.setHeadFlag h slot k).readyForClose b = (s.setHead h y).readyForClose b :=
        readyForClose_congr hheads (hset .config (by simp))
      have hfailed : (s.failFrame h slot k).heads = (s.setHeadFlag h slot k).heads ∧
          (s.failFrame h slot k).stats[n] = (s.setHeadFlag h slot k).stats[n] := failFrame_keeps hwait huse
      rw [ht]
      refine ⟨hfailed.1.trans hheads, ?_, fun hboard hblocked i e hstate hearly he hslot hopen => ?_, fun hstays => ?_⟩
      · rw [hfailed.2, hstats, get_set_self]
      · have hlog : h ≠ 8 := fun heq => absurd hboard (by rw [heq]; decide)
        have hentry : (s.setHeadFlag h slot k).entry s.boards[i].lug = some e :=
          (entry_congr (hset .lugLine (by simp)) _).trans he
        have hcloses := earlyCloseAll_closes (s := s.setHeadFlag h slot k) (i := i) (e := e)
        rw [hboards, hready] at hcloses
        rw [failFrame_closes hlog hblocked]
        exact hcloses hstate hearly hentry hslot hopen
      · rw [failFrame_stays (by simpa only [hready] using hstays)]
        exact ⟨hstats, hnotices, hset⟩
    · have ht : t = s.countFrame h .skipped := (settleArrival_passed hform hsum).trans (if_pos hblocked)
      rw [ht]
      exact ⟨rfl, rfl, countFrame_only _ _ _⟩
    · have ht : t = (s.checkSequence h slot f).settleGood h f :=
        (settleArrival_passed hform hsum).trans (if_neg (by rw [hblocked]; exact Bool.noConfusion))
      obtain ⟨hheads, hstats, hnotices⟩ := checkSequence_spec s h slot f
      refine ⟨ht, hheads, hstats, hnotices, checkSequence_only s h slot f, fun hdisabled => ?_⟩
      have hkept : (s.checkSequence h slot f).heads[h].enabled = false := by
        rw [hheads, get_set_self]
        split <;> exact hdisabled
      rw [ht, settleGood_disabled hkept]
      exact ⟨rfl, rfl, countFrame_only _ _ _⟩

end Sys2Proof.Proofs
end

section
/-! Log assembly and the close of a log (R5, R31, R45 to R50, R53, R56, R139, R142). -/

namespace Sys2Proof.Machine

variable {s t u : State} {f : Frame} {x : OpenLog} {slot : Fin 16}

/-! ### A good frame of the log head (R31, R45 to R50) -/

theorem settleGood_log (henabled : s.heads[(8 : Fin 9)].enabled = true) :
    s.settleGood 8 f = if s.running = false then s.countFrame 8 .skipped else s.takeLogFrame f :=
  (if_neg (by rw [henabled]; exact Bool.noConfusion)).trans (dif_neg (by decide))

theorem running_of_run (h : s.lineState = .run) : s.running = true := by rw [State.running, h]; rfl

theorem running_of_drain (h : s.lineState = .drain) : s.running = true := by rw [State.running, h]; rfl

theorem settleGood_log_running (henabled : s.heads[(8 : Fin 9)].enabled = true) (hrunning : s.running = true) :
    s.settleGood 8 f = s.takeLogFrame f :=
  (settleGood_log henabled).trans (if_neg (by rw [hrunning]; exact Bool.noConfusion))

theorem truncateLog_none (h : s.logUnit.openLog = none) : s.truncateLog = s := by
  rw [State.truncateLog, h]

theorem truncateLog_some (h : s.logUnit.openLog = some x) : s.truncateLog = s.closeLog x true := by
  rw [State.truncateLog, h]

theorem takeLogFrame_first_run (hindex : f.index = 0) (hline : s.lineState = .run) :
    s.takeLogFrame f = s.truncateLog.storeLog ⟨f.number, [f.section], 0⟩ f.flag :=
  (if_pos hindex).trans (if_pos hline)

theorem takeLogFrame_first_drain (hindex : f.index = 0) (hline : s.lineState = .drain) :
    s.takeLogFrame f = s.truncateLog.countFrame 8 .skipped :=
  (if_pos hindex).trans (if_neg (by rw [hline]; exact LineState.noConfusion))

theorem takeLogFrame_later_none (hindex : f.index ≠ 0) (hopen : s.logUnit.openLog = none) :
    s.takeLogFrame f = s.countFrame 8 .droppedOld := by
  rw [State.takeLogFrame, if_neg hindex, hopen]
  rfl

theorem takeLogFrame_later_some (hindex : f.index ≠ 0) (hopen : s.logUnit.openLog = some x) :
    s.takeLogFrame f = s.addSection x f := by
  rw [State.takeLogFrame, if_neg hindex, hopen]

theorem addSection_dropped (h : f.number ≠ x.number ∨ f.index < x.sections.length) :
    s.addSection x f = s.countFrame 8 .droppedOld := by
  by_cases hnumber : f.number ≠ x.number
  · exact if_pos hnumber
  · exact (if_neg hnumber).trans (if_pos (h.resolve_left hnumber))

theorem addSection_beyond (hnumber : f.number = x.number) (hindex : x.sections.length ≤ f.index) (hlong : 95 < f.index) :
    s.addSection x f = (s.closeLog x true).countFrame 8 .droppedOld :=
  (if_neg (not_not.mpr hnumber)).trans ((if_neg (Nat.not_lt.mpr hindex)).trans (if_pos hlong))

theorem addSection_stored (hnumber : f.number = x.number) (hindex : x.sections.length ≤ f.index) (hlong : f.index ≤ 95) :
    s.addSection x f = s.storeLog (x.append f.index f.section) f.flag :=
  (if_neg (not_not.mpr hnumber)).trans ((if_neg (Nat.not_lt.mpr hindex)).trans (if_neg (Nat.not_lt.mpr hlong)))

theorem append_of_getLast {d z : Nat × Nat} {j : Nat} (hlast : x.sections.getLast? = some z) :
    x.append j d = ⟨x.number, x.sections ++ List.replicate (j - x.sections.length) z ++ [d],
      x.interpolated + (j - x.sections.length)⟩ := by
  rw [OpenLog.append, List.getLastD_eq_getLast?, hlast]
  rfl

/-- The state in which a section stands in the open log and its frame is counted, before an end flag closes it (R47). -/
def State.sectionStored (s : State) (x : OpenLog) : State :=
  (s.setLogUnit { s.logUnit with openLog := some x }).countFrame 8 .taken

theorem sectionStored_only (s : State) (x : OpenLog) : OnlyChanges [.logUnit, .heads, .stats] s (s.sectionStored x) :=
  (countFrame_frame _ _ (by simp)).mpr ((setLogUnit_frame _ (by simp)).mpr (.refl _ _))

theorem storeLog_eq (s : State) (x : OpenLog) (ends : Bool) :
    s.storeLog x ends = if ends then (s.sectionStored x).closeLog x false else s.sectionStored x := rfl

/-- A good frame in sequence sets the head's next sequence alone (R24). -/
theorem checkSequence_in_turn {h : Fin 9} (hturn : ∀ x, s.heads[h].expected = some x → x = f.seq) :
    s.checkSequence h slot f = s.setHead h { s.heads[h] with expected := some (f.seq + 1) } := by
  have hgap : (s.heads[h].expected.any fun e => decide (e ≠ f.seq)) = false := by
    cases hexpected : s.heads[h].expected with
    | none => rfl
    | some e => exact decide_eq_false (not_not.mpr (hturn e hexpected))
  unfold State.checkSequence
  rw [hgap]
  rfl

/-- The first section of a log on a line in RUN with no log open (R24, R45, R47). -/
theorem settleArrival_first_section {written : BitVec 4} (hform : f.formed 8 written = true) (hsum : f.checksum = f.sum)
    (hblocked : s.heads[(8 : Fin 9)].blocked = false) (henabled : s.heads[(8 : Fin 9)].enabled = true)
    (hturn : ∀ x, s.heads[(8 : Fin 9)].expected = some x → x = f.seq) (hrun : s.lineState = .run)
    (hopen : s.logUnit.openLog = none) (hindex : f.index = 0) (hflag : f.flag = false) :
    s.settleArrival 8 slot f written =
      (s.setHead 8 { s.heads[(8 : Fin 9)] with expected := some (f.seq + 1) }).sectionStored ⟨f.number, [f.section], 0⟩ := by
  rw [settleArrival_passed hform hsum, if_neg (by rw [hblocked]; exact Bool.noConfusion), checkSequence_in_turn hturn]
  obtain ⟨v, hv⟩ : ∃ v, v = s.setHead 8 { s.heads[(8 : Fin 9)] with expected := some (f.seq + 1) } := ⟨_, rfl⟩
  have hkept : v.heads[(8 : Fin 9)].enabled = true := by
    rw [hv, State.setHead, get_set_self]
    exact henabled
  have hline : v.lineState = .run := hv ▸ hrun
  have hnone : v.logUnit.openLog = none := hv ▸ hopen
  rw [← hv, settleGood_log_running hkept (running_of_run hline), takeLogFrame_first_run hindex hline,
    truncateLog_none hnone, storeLog_eq, hflag]
  rfl

/-! ### The close of a log (R53, R139, R142) -/

/-- The line with a log closed, counted and announced, before the drain may complete. -/
def State.logClosed (s : State) (x : OpenLog) (truncated : Bool) : State :=
  ((((s.setLogUnit
    { openLog := none
      closeCount := s.logUnit.closeCount + 1
      ring := s.logUnit.ring.set (logSlot (s.logUnit.closeCount + 1))
        (x.record (s.logUnit.closeCount + 1) s.infeedNumber truncated) }).publish .log
      (.log (logSlot (s.logUnit.closeCount + 1)))).tallyLog x.volume).raise
        (.logDone x.number (logSlot (s.logUnit.closeCount + 1)).val))

theorem closeLog_eq (s : State) (x : OpenLog) (truncated : Bool) :
    s.closeLog x truncated = (s.logClosed x truncated).drainIfDone := rfl

theorem logSlot_eq {i : Fin 16} (h : i.val = s.logUnit.closeCount.toNat % 16) : logSlot (s.logUnit.closeCount + 1) = i := by
  refine Fin.ext ?_
  rw [logSlot, BitVec.add_sub_cancel]
  exact h.symm

theorem logClosed_only (s : State) (x : OpenLog) (truncated : Bool) :
    OnlyChanges [.logUnit, .runs, .notices, .stamps, .publications] s (s.logClosed x truncated) :=
  (raise_frame _ (by simp)).mpr ((tallyLog_frame _ (by simp)).mpr
    ((publish_frame _ _ (by simp)).mpr ((setLogUnit_frame _ (by simp)).mpr (.refl _ _))))

theorem tallyLog_only (s : State) (volume : Nat) : OnlyChanges [.runs, .stamps, .publications] s (s.tallyLog volume) :=
  (tallyLog_frame volume (by simp)).mpr (.refl _ _)

theorem tallyLog_none {volume : Nat} (h : s.runs.infeed = none) : s.tallyLog volume = s := by
  rw [State.tallyLog, h]

theorem tallyLog_some {volume : Nat} {r : Fin 8} (h : s.runs.infeed = some r) : s.tallyLog volume =
    (s.setRun r { s.runs.slots[r] with tally := s.runs.slots[r].tally.addLog volume }).publish .tally (.run r) := by
  rw [State.tallyLog, h]

theorem tallyLog_stamp {volume : Nat} {q : Record} (hrun : ∀ r, q ≠ .run r) :
    (s.tallyLog volume).stamp q = s.stamp q := by
  cases h : s.runs.infeed with
  | none => rw [tallyLog_none h]
  | some r =>
    rw [tallyLog_some h]
    exact publish_stamp_ne (hrun r)

theorem dropPendingSwitch_stamp {q : Record} (hstatus : q ≠ .status) (hnotice : ∀ ring slot, q ≠ .notice ring slot) :
    s.dropPendingSwitch.stamp q = s.stamp q := by
  unfold State.dropPendingSwitch
  split
  · rfl
  · exact raise_stamp (s.setBanks { s.banks with pendingSwitch := none }) _ _ hstatus hnotice

/-- Of the records a completed drain republishes the statistics alone, its notices and the status block apart. -/
theorem drainIfDone_stamp {q : Record} (hstatus : q ≠ .status) (hstats : q ≠ .stats)
    (hnotice : ∀ ring slot, q ≠ .notice ring slot) : s.drainIfDone.stamp q = s.stamp q := by
  unfold State.drainIfDone
  split
  · dsimp only
    rw [raise_stamp _ _ _ hstatus hnotice, publish_stamp_ne hstats, publish_stamp_ne hstatus]
    exact dropPendingSwitch_stamp hstatus hnotice
  · rfl

theorem logClosed_logUnit {i : Fin 16} (truncated : Bool) (hi : i.val = s.logUnit.closeCount.toNat % 16) :
    (s.logClosed x truncated).logUnit = ⟨none, s.logUnit.closeCount + 1,
      s.logUnit.ring.set i (x.record (s.logUnit.closeCount + 1) s.infeedNumber truncated)⟩ := by
  unfold State.logClosed
  simp only [logSlot_eq hi, raise_logUnit]
  rw [tallyLog_only _ _ .logUnit (by simp), publish_logUnit]
  rfl

theorem logClosed_runs (truncated : Bool) :
    (s.runs.infeed = none → (s.logClosed x truncated).runs = s.runs) ∧
    ∀ r, s.runs.infeed = some r → (s.logClosed x truncated).runs = { s.runs with
      slots := s.runs.slots.set r { s.runs.slots[r] with tally := s.runs.slots[r].tally.addLog x.volume } } := by
  unfold State.logClosed
  refine ⟨fun hnone => ?_, fun r hr => ?_⟩
  · rw [raise_runs, tallyLog_none (by rw [publish_runs]; exact hnone), publish_runs]
    rfl
  · rw [raise_runs, tallyLog_some (by rw [publish_runs]; exact hr), publish_runs, State.setRun_runs, publish_runs]
    rfl

theorem logClosed_notices {i : Fin 16} (truncated : Bool) (hi : i.val = s.logUnit.closeCount.toNat % 16) :
    (s.logClosed x truncated).notices = (s.forEach [.logDone x.number i.val] State.raise).notices := by
  unfold State.logClosed
  simp only [logSlot_eq hi]
  refine raise_notices_congr ?_ ?_ _
  · exact Eq.trans (tallyLog_only _ _ .notices (by simp)) (publish_notices _ _ _)
  · exact Eq.trans (tallyLog_only _ _ .routes (by simp)) (publish_routes _ _ _)

theorem logClosed_stamp_stats (truncated : Bool) : (s.logClosed x truncated).stamp .stats = s.stamp .stats := by
  unfold State.logClosed
  rw [raise_stamp_stats, tallyLog_stamp (q := .stats) nofun]
  exact publish_stamp_ne nofun

theorem logClosed_stamp_log {i : Fin 16} (truncated : Bool) (hi : i.val = s.logUnit.closeCount.toNat % 16)
    (hinitial : s.path.initialRest = []) : (s.logClosed x truncated).stamp (.log i) = s.stamp (.log i) + 1 := by
  unfold State.logClosed
  simp only [logSlot_eq hi]
  rw [raise_stamp _ _ (.log i) nofun nofun, tallyLog_stamp (q := .log i) nofun]
  refine (stamp_publish _ _ _ _).trans (if_pos ⟨rfl, ?_⟩)
  change (Record.log i).initUnit ∉ s.path.initialRest
  rw [hinitial]
  exact List.not_mem_nil

theorem logClosed_drained (truncated : Bool) :
    (s.logClosed x truncated).drained ↔ s.lineState = .drain ∧ s.anyInUse = false := by
  have honly := logClosed_only s x truncated
  have hline : (s.logClosed x truncated).lineState = s.lineState := honly .lineState (by simp)
  have hboards : (s.logClosed x truncated).boards = s.boards := honly .boards (by simp)
  have hnone : (s.logClosed x truncated).logUnit.openLog = none := by
    rw [logClosed_logUnit (i := Fin.ofNat 16 s.logUnit.closeCount.toNat) truncated rfl]
  rw [State.drained, State.anyInUse, hline, hboards, hnone]
  exact and_congr Iff.rfl (and_iff_left rfl)

end Sys2Proof.Machine

namespace Sys2Proof.Proofs

open Sys2Proof.Machine

/-- Settles O16: the first section as a command, each section by the tests of its log, and the close of a log. -/
theorem logAssembly : Obligations.LogAssembly := by
  refine ⟨?_, fun s f => ?_, fun s x truncated i hi => ?_⟩
  · intro s w slot o al hreleased hrun hwf hoffset hlo hhi htrailer m f hform hsum hblocked henabled hnext hopen hindex
      hflag
    obtain ⟨hcaptured, hexec⟩ := exec_frameArrival (c := .frameArrival w) (by simp [writeRows]) hreleased hoffset hlo hhi
      htrailer
    obtain ⟨u, hu⟩ : ∃ u, u = s.arrived o w 8 slot := ⟨_, rfl⟩
    have honly : OnlyChanges [.shadow, .heads, .event, .ports] s u := hu ▸ arrived_only s o w 8 slot
    have hshadow : u.shadow = m := hu ▸ (arrived_shadow s o w 8 slot).trans hcaptured
    have hheads : u.heads = s.heads.set (8 : Fin 9)
        { s.heads[(8 : Fin 9)] with marks := s.heads[(8 : Fin 9)].marks.set slot 0 } := hu ▸ arrived_heads s o w 8 slot
    have hlogUnit : u.logUnit = s.logUnit := honly .logUnit (by simp)
    have hstats : u.stats = s.stats := honly .stats (by simp)
    have hline : u.lineState = .run := Eq.trans (honly .lineState (by simp)) hrun
    have hhead : u.heads[(8 : Fin 9)] = { s.heads[(8 : Fin 9)] with marks := s.heads[(8 : Fin 9)].marks.set slot 0 } := by
      rw [hheads, get_set_self]
    have hsettled : u.settleArrival 8 slot f (s.heads[(8 : Fin 9)].marks[slot] ||| 8) =
        (u.setHead 8 { u.heads[(8 : Fin 9)] with expected := some (f.seq + 1) }).sectionStored ⟨f.number, [f.section], 0⟩ :=
      settleArrival_first_section hform hsum (by rw [hhead]; exact hblocked) (by rw [hhead]; exact henabled)
        (by rw [hhead]; exact hnext) hline (by rw [hlogUnit]; exact hopen) hindex hflag
    rw [← hu, hsettled] at hexec
    have hstored := sectionStored_only (u.setHead 8 { u.heads[(8 : Fin 9)] with expected := some (f.seq + 1) })
      ⟨f.number, [f.section], 0⟩
    have hset : OnlyChanges [.heads] u (u.setHead 8 { u.heads[(8 : Fin 9)] with expected := some (f.seq + 1) }) :=
      (setHead_frame _ _ (by simp)).mpr (.refl _ _)
    refine ⟨_, hexec, ?_, ?_, ?_, ?_, ?_⟩
    · rw [publish_shadow, hstored .shadow (by simp)]
      exact hshadow
    · rw [publish_logUnit, ← hlogUnit]
      rfl
    · rw [publish_heads]
      unfold State.sectionStored State.countFrame State.setLogUnit State.setHead
      simp only [State.bump, hheads, get_set_self, Vector.set_set]
      rfl
    · rw [publish_stats, ← hstats]
      rfl
    · exact (publish_frame _ _ (by simp)).mpr
        ((honly.mono (by simp)).trans ((hset.mono (by simp)).trans (hstored.mono (by simp))))
  · intro t d counts drops skips stores henabled
    have ht : ∀ v, s.takeLogFrame f = v → s.running = true → t = v := fun v hv hrunning =>
      (settleGood_log_running henabled hrunning).trans hv
    have hdrops : ∀ u : State, t = u.countFrame 8 .droppedOld → drops u := fun u hu => by
      simp only [drops, counts]
      rw [hu]
      exact ⟨⟨rfl, rfl⟩, countFrame_only _ _ _⟩
    have hskips : ∀ u : State, t = u.countFrame 8 .skipped → skips u := fun u hu => by
      simp only [skips, counts]
      rw [hu]
      exact ⟨⟨rfl, rfl⟩, countFrame_only _ _ _⟩
    have hstores : ∀ (u : State) (y : OpenLog), t = u.storeLog y f.flag → stores u y := fun u y hu =>
      ⟨u.sectionStored y, rfl, ⟨rfl, rfl⟩, sectionStored_only u y, hu⟩
    refine ⟨fun hstopped => ?_, fun hrun hindex => ⟨fun hopen => ?_, fun x hopen => ?_⟩,
      fun hdrain hindex => ⟨fun hopen => ?_, fun x hopen => ?_⟩,
      fun hrunning hindex => ⟨fun hopen => ?_, fun x hopen => ?_⟩⟩
    · exact hskips s ((settleGood_log henabled).trans (if_pos hstopped))
    · refine hstores s _ (ht _ (takeLogFrame_first_run hindex hrun) (running_of_run hrun) |>.trans ?_)
      rw [truncateLog_none hopen]
      rfl
    · refine hstores _ _ (ht _ (takeLogFrame_first_run hindex hrun) (running_of_run hrun) |>.trans ?_)
      rw [truncateLog_some hopen]
      rfl
    · refine hskips s (ht _ (takeLogFrame_first_drain hindex hdrain) (running_of_drain hdrain) |>.trans ?_)
      rw [truncateLog_none hopen]
    · refine hskips _ (ht _ (takeLogFrame_first_drain hindex hdrain) (running_of_drain hdrain) |>.trans ?_)
      rw [truncateLog_some hopen]
    · exact hdrops s (ht _ (takeLogFrame_later_none hindex hopen) hrunning)
    · have hadd := ht _ (takeLogFrame_later_some hindex hopen) hrunning
      refine ⟨fun hdropped => ?_, fun hnumber hnext hlong => ?_, fun hnumber hnext hlong z hlast => ?_⟩
      · exact hdrops s (hadd.trans (addSection_dropped hdropped))
      · exact hdrops _ (hadd.trans (addSection_beyond hnumber hnext hlong))
      · refine hstores s _ (hadd.trans ((addSection_stored hnumber hnext hlong).trans ?_))
        rw [append_of_getLast hlast]
        rfl
  · intro t n run z done dropped
    obtain ⟨u, hu⟩ : ∃ u, u = s.logClosed x truncated := ⟨_, rfl⟩
    have ht : t = u.drainIfDone := by
      rw [hu]
      exact closeLog_eq s x truncated
    have hdrained : u.drained ↔ done = true := by
      rw [hu, logClosed_drained, decide_eq_true_iff]
    have honly : OnlyChanges [.logUnit, .runs, .notices, .stamps, .publications] s u := hu ▸ logClosed_only s x truncated
    have hlog : u.logUnit = ⟨none, n, s.logUnit.ring.set i z⟩ := hu ▸ logClosed_logUnit truncated hi
    have hnotices : u.notices = (s.forEach [.logDone x.number i.val] State.raise).notices :=
      hu ▸ logClosed_notices truncated hi
    have hstats : u.stamp .stats = s.stamp .stats := hu ▸ logClosed_stamp_stats truncated
    obtain ⟨hnone, hsome⟩ := logClosed_runs (s := s) (x := x) truncated
    have hstamp := logClosed_stamp_log (s := s) (x := x) truncated hi
    rw [← hu] at hnone hsome hstamp
    have hafter := drainIfDone_only u
    have hruns : u.drainIfDone.runs = u.runs := hafter .runs (by simp)
    have hbanks : u.banks = s.banks := honly .banks (by simp)
    classical
    clear_value t
    subst ht
    refine ⟨Eq.trans (hafter .logUnit (by simp)) hlog, ⟨rfl, rfl, rfl, rfl, rfl, rfl, Nat.mul_comm _ _, rfl⟩,
      fun hinfeed => hruns.trans (hnone hinfeed), fun r hr => hruns.trans (hsome r hr), ?_, fun hinitial => ?_,
      fun hnot => ?_, fun hdone => ?_⟩
    · have hraised : (if u.drained then u.drainNotices else []) = if done then dropped ++ [.lineIdle s.lc] else [] := by
        have hlc : u.lc = s.lc := honly .lc (by simp)
        rw [State.drainNotices, hbanks, hlc]
        exact if_congr hdrained rfl rfl
      have hdrain := drainIfDone_notices u
      rw [hraised] at hdrain
      exact raised_after hnotices (honly .routes (by simp)) hdrain
    · exact (drainIfDone_stamp (q := .log i) nofun nofun nofun).trans (hstamp hinitial)
    · rw [drainIfDone_not u fun h => Bool.false_ne_true (hnot.symm.trans (hdrained.mp h))]
      exact honly
    · obtain ⟨hidle, hline, hheld, hdropped, -, hpublished, -⟩ := drainIfDone_done u (hdrained.mpr hdone)
      have hrest : u.path.initialRest = s.path.initialRest := honly .initialRest (by simp)
      refine ⟨hidle, fun k => ?_, hheld, by rw [hdropped, hbanks], fun hinitial => ?_,
        (honly.mono (by simp)).trans (hafter.mono (by simp))⟩
      · rw [hline]
        exact Vector.getElem_replicate _
      · rw [hpublished (hrest.trans hinitial), hstats]

end Sys2Proof.Proofs
end

section
/-! The publications that a command adds to those waiting (R155, R157): it takes none away, and adds no initial write. -/

namespace Sys2Proof.Machine

/-- The publications of t are those of s and then others, none of them an initial write. -/
def Appends (s t : State) : Prop :=
  ∃ more, t.path.publications = s.path.publications ++ more ∧ ∀ p ∈ more, isInitial p = false

namespace Appends

variable {s t u : State}

theorem refl (s : State) : Appends s s := ⟨[], (List.append_nil _).symm, nofun⟩

theorem trans (h : Appends s t) (k : Appends t u) : Appends s u := by
  obtain ⟨xs, ht, hxs⟩ := h
  obtain ⟨ys, hu, hys⟩ := k
  refine ⟨xs ++ ys, by rw [hu, ht, List.append_assoc], fun p hp => ?_⟩
  exact (List.mem_append.mp hp).elim (hxs p) (hys p)

theorem same (h : Appends s t) (hu : u.path.publications = t.path.publications) : Appends s u := by
  obtain ⟨xs, ht, hxs⟩ := h
  exact ⟨xs, hu.trans ht, hxs⟩

/-- An operation that publishes nothing. -/
theorem quiet {T : List Field} (h : Appends s t) (hq : OnlyChanges T t u) (hT : .publications ∉ T) : Appends s u :=
  h.same (hq .publications hT)

theorem ite {c : Prop} [Decidable c] {a b : State} (ha : c → Appends s a) (hb : ¬c → Appends s b) :
    Appends s (if c then a else b) := by
  split
  · exact ha ‹_›
  · exact hb ‹_›

theorem forEach_mem {α : Type} (h : Appends s t) {xs : List α} {f : State → α → State}
    (hf : ∀ u, ∀ x ∈ xs, Appends u (f u x)) : Appends s (t.forEach xs f) := by
  induction xs generalizing t with
  | nil => exact h
  | cons x xs ih => exact ih (h.trans (hf t x List.mem_cons_self)) fun u y hy => hf u y (List.mem_cons_of_mem _ hy)

theorem forEach {α : Type} (h : Appends s t) {xs : List α} {f : State → α → State} (hf : ∀ u x, Appends u (f u x)) :
    Appends s (t.forEach xs f) :=
  h.forEach_mem fun u x _ => hf u x

/-! ### Records, answers and notices -/

theorem enqueue (h : Appends s t) {p : Publication} (hp : isInitial p = false) : Appends s (t.enqueue p) :=
  h.trans ⟨[p], rfl, fun q hq => by rw [List.mem_singleton.mp hq]; exact hp⟩

theorem publish (h : Appends s t) {o : FunctionalBlock} {r : Record} : Appends s (t.publish o r) :=
  ite (fun _ => h) fun _ => enqueue (h.same (by rfl)) rfl

theorem writeAnswer (h : Appends s t) {o : FunctionalBlock} {k : PubTarget} {a : Nat} {xs : List Byte}
    (hk : ∀ u, k ≠ .initial u) : Appends s (t.writeAnswer o k a xs) := by
  refine enqueue (h.same (by rfl)) ?_
  cases k with
  | initial u => exact absurd rfl (hk u)
  | _ => rfl

theorem storeNotice (h : Appends s t) {ring : Fin 2} {n : Notice} {lost : Half} : Appends s (t.storeNotice ring n lost) :=
  publish (publish (h.same (by rfl)))

theorem loseNotice (h : Appends s t) {ring : Fin 2} : Appends s (t.loseNotice ring) :=
  ite (fun _ => h) fun _ => publish (h.same (by rfl))

theorem routeNotice (h : Appends s t) {ring : Fin 2} {n : Notice} : Appends s (t.routeNotice ring n) :=
  have hlost := ite (fun _ : t.notices[ring].lost ≠ 0 ∧ t.notices[ring].held < 32 =>
    h.storeNotice (n := .lost ring.val t.notices[ring].lost) (lost := 0)) fun _ => h
  ite (fun _ => hlost.storeNotice) fun _ => hlost.loseNotice

theorem raise (h : Appends s t) {n : Notice} : Appends s (t.raise n) := by
  unfold State.raise
  split
  · exact h
  · exact h.routeNotice
  · exact h.routeNotice

/-! ### Boards -/

theorem raiseRequest (h : Appends s t) {c : RequestClass} {i : Fin 64} : Appends s (t.raiseRequest c i) :=
  h.quiet ((raiseRequest_frame c i (fun _ hf => hf)).mpr (.refl [.boards, .solver, .stats] _)) (by simp)

theorem closeBoard (h : Appends s t) {i : Fin 64} : Appends s (t.closeBoard i) := by
  have hcells : Appends s (t.setBoard i (t.boards[i].reduce.gradeCells t.shadow)) := h.same (by rfl)
  exact ((hcells.forEach fun u _ => (refl u).raise).raiseRequest).publish

theorem closeLug (h : Appends s t) {lug : Half} : Appends s (t.closeLug lug) := by
  unfold State.closeLug
  split
  · exact h
  · refine ite (fun _ => h) fun _ => ?_
    split
    · exact closeBoard (h.same (by rfl))
    · unfold State.closeEmpty
      split
      · exact raise (h.same (by rfl))
      · exact h.same (by rfl)

theorem earlyCloseAll (h : Appends s t) : Appends s t.earlyCloseAll := h.forEach fun u _ => (refl u).closeLug

theorem resolveCause (h : Appends s t) {i : Fin 64} : Appends s (t.resolveCause i) :=
  h.quiet ((resolveCause_frame i (fun _ hf => hf)).mpr (.refl [.boards, .solver, .stats] _)) (by simp)

theorem restartInFlight (h : Appends s t) : Appends s t.restartInFlight := by
  unfold State.restartInFlight
  split
  · exact h
  · exact publish (h.same (by rfl))

theorem changeMask (h : Appends s t) {mask : SawSet} : Appends s (t.changeMask mask) :=
  (publish (h.same (by rfl))).restartInFlight.forEach fun u _ => (refl u).resolveCause.publish

/-! ### Runs and banks -/

theorem settleRun (h : Appends s t) {r : Fin 8} : Appends s (t.settleRun r) :=
  ite (fun _ => raise (publish (h.same (by rfl)))) fun _ => h.publish

theorem leaveRun (h : Appends s t) {n : Half} {f : RunSlot → RunSlot} : Appends s (t.leaveRun n f) := by
  unfold State.leaveRun
  split
  · exact settleRun (h.same (by rfl))
  · exact h

theorem openRun (h : Appends s t) {r : Fin 8} : Appends s (t.openRun r) := publish (publish (h.same (by rfl)))

theorem advanceRun (h : Appends s t) {r q : Fin 8} : Appends s (t.advanceRun r q) :=
  (settleRun (h.same (by rfl))).publish.publish

theorem setRefs (h : Appends s t) {k : BankId} {n : Nat} : Appends s (t.setRefs k n) := publish (h.same (by rfl))

theorem releaseBank (h : Appends s t) {k : BankId} {lug : Half} : Appends s (t.releaseBank k lug) :=
  ite (fun _ => publish (raise (h.same (by rfl)))) fun _ => h

theorem makeSwitch (h : Appends s t) {k : BankId} {n : Half} : Appends s (t.makeSwitch k n) :=
  publish (raise (h.same (by rfl)))

theorem dropPendingSwitch (h : Appends s t) : Appends s t.dropPendingSwitch := by
  unfold State.dropPendingSwitch
  split
  · exact h
  · exact raise (h.same (by rfl))

/-! ### The line -/

theorem drainIfDone (h : Appends s t) : Appends s t.drainIfDone := by
  have hcleared : Appends s ({ t with lugLine := Vector.replicate 64 none, held := [] } : State) := h.same (by rfl)
  exact ite (fun _ => raise (publish (publish (hcleared.dropPendingSwitch.same (by rfl))))) fun _ => h

theorem fixBin (h : Appends s t) {c : LineConfig} {i : Fin 40} : Appends s (t.fixBin c i) :=
  ite (fun _ => h) fun _ => publish (h.same (by rfl))

theorem start (h : Appends s t) : Appends s t.start := by
  have hopened : Appends s (State.openFirstRun
      { t with config := some (readConfig t.shadow), lugLine := Vector.replicate 64 none, lineState := .run }) :=
    ite (fun _ => openRun (h.same (by rfl))) fun _ => h.same (by rfl)
  exact (hopened.forEach fun u _ => (refl u).fixBin).publish

theorem loseBoard (h : Appends s t) {i : Fin 64} : Appends s (t.loseBoard i) :=
  (leaveRun (publish (h.same (by rfl)))).setRefs

theorem enterIdleByStop (h : Appends s t) : Appends s t.enterIdleByStop := raise (publish (publish (h.same (by rfl))))

theorem stop (h : Appends s t) : Appends s t.stop := by
  have hlost : Appends s ((t.forEach t.slotsInUse State.loseBoard).setSolver Solver.atReset) :=
    (h.forEach fun u _ => (refl u).loseBoard).same (by rfl)
  exact ((hlost.forEach fun u _ => (refl u).releaseBank).dropPendingSwitch).enterIdleByStop

/-! ### Commands (Table 10-2) -/

theorem startLine (h : Appends s t) : Appends s t.startLine.1 := by
  unfold State.startLine
  split
  · exact h
  · split
    · exact h
    · split
      · exact h
      · dsimp only
        exact h.start

theorem drainLine (h : Appends s t) : Appends s t.drainLine.1 := by
  unfold State.drainLine
  split
  · exact h
  · dsimp only
    exact drainIfDone (publish (h.same (by rfl)))

theorem stopLine (h : Appends s t) : Appends s t.stopLine.1 := by
  unfold State.stopLine
  split
  · dsimp only
    exact h.stop
  · exact h

theorem bankSwitch (h : Appends s t) {bank lug : Half} : Appends s (t.bankSwitch bank lug).1 := by
  unfold State.bankSwitch
  dsimp only
  split_ifs
  any_goals exact h
  split
  · exact h
  · unfold State.acceptSwitch
    split
    · exact publish (h.same (by rfl))
    · exact h.makeSwitch

theorem setSawMask (h : Appends s t) {arg : Half} : Appends s (t.setSawMask arg).1 := by
  unfold State.setSawMask
  dsimp only
  split_ifs
  · exact h
  · exact h
  · exact h.changeMask

theorem headEnable (h : Appends s t) {arg : Half} : Appends s (t.headEnable arg).1 := by
  have hheads : Appends s (t.forEach (List.finRange 9) fun u k => u.enableHead arg k) :=
    h.forEach fun u k => ite (fun _ => refl u) fun _ => publish ((refl u).same (by rfl))
  unfold State.headEnable
  split
  · exact h
  · exact ite (fun _ => hheads.earlyCloseAll) fun _ => hheads

theorem runNew (h : Appends s t) : Appends s t.runNew.1 := by
  unfold State.runNew
  split
  · exact h
  · exact h.openRun

theorem runAdvance (h : Appends s t) : Appends s t.runAdvance.1 := by
  unfold State.runAdvance
  split
  · exact h
  · exact h.advanceRun

theorem binHold (h : Appends s t) {bin : Half} : Appends s (t.binHold bin).1 := by
  unfold State.binHold
  dsimp only
  split_ifs
  · exact h
  · exact publish (h.same (by rfl))
  · exact h

theorem binEmpty (h : Appends s t) {bin : Half} : Appends s (t.binEmpty bin).1 := by
  unfold State.binEmpty
  dsimp only
  split_ifs
  · exact publish (h.same (by rfl))
  · exact h

theorem noticeRoute (h : Appends s t) {kind route : Half} : Appends s (t.noticeRoute kind route).1 := by
  unfold State.noticeRoute
  split_ifs
  · exact h.same (by rfl)
  · exact h

/-- R166: each of the twelve commands, and the entry that names none. -/
theorem doCommand (h : Appends s t) (c : Command) : Appends s (t.doCommand c).1 := by
  cases c with
  | startLine => exact h.startLine
  | drainLine => exact h.drainLine
  | stopLine => exact h.stopLine
  | bankSwitch bank lug => exact h.bankSwitch
  | sawMask saws => exact h.setSawMask
  | headEnable heads => exact h.headEnable
  | runNew => exact h.runNew
  | runAdvance => exact h.runAdvance
  | binHold bin => exact h.binHold
  | binEmpty bin => exact h.binEmpty
  | noticeRoute kind route => exact h.noticeRoute
  | statsClear => exact publish (h.same (by rfl))
  | unknown => exact h

theorem takeCommand (h : Appends s t) {i : Fin 64} {x : CommandEntry} : Appends s (t.takeCommand i x) :=
  (h.doCommand x.command).writeAnswer nofun

end Appends

end Sys2Proof.Machine
end

section
/-! The end of the initial publication (R1, R145, R162, R164, R182): the initial writes not yet made. -/

namespace Sys2Proof.Machine

variable {s t u : State} {ws vs : List InjectedWrite} {as bs : List (Half × Record)}

theorem readsHeader_congr (harena : t.path.arenaBase = s.path.arenaBase) (r : BusRead) :
    t.readsHeader r = s.readsHeader r := by
  simp only [State.readsHeader, State.offsetOf, harena]

theorem setInitialRest_only (s : State) (rest : List InitUnit) :
    OnlyChanges [.initialRest] s (s.setPath { s.path with initialRest := rest }) := by
  intro f hf
  cases f <;> first | rfl | (simp at hf)

/-- What initial writes made and answered bring: ws are the writes, as the records answered, each with the stamp at which
it was written. -/
structure WrittenOut (s t : State) (ws : List InjectedWrite) (as : List (Half × Record)) : Prop where
  only : OnlyChanges [.notices, .initialRest, .heldReads, .openReads, .ports] s t
  writes : t.path.ports.filterMap PortEvent.ownWrite = s.path.ports.filterMap PortEvent.ownWrite ++ ws
  held : t.path.heldReads =
    s.path.heldReads.filter fun r => !(s.readsHeader r).any fun x => decide (x ∈ as.map Prod.snd)
  goOn : ∀ r ∈ s.path.heldReads, r ∈ t.path.heldReads ∨ r ∈ t.path.openReads
  stays : ∀ r ∈ s.path.openReads, r ∈ t.path.openReads
  ring : ∀ ring : Fin 2, t.notices[ring] = { s.notices[ring] with attn := attn t ring }
  raised : ∀ ring, attn t ring = true ↔ attn s ring = true ∨ ∃ a ∈ as, s.answersHeld ring a.1 a.2

namespace WrittenOut

theorem refl (s : State) : WrittenOut s s [] [] where
  only := .refl _ _
  writes := (List.append_nil _).symm
  held := by
    refine (List.filter_eq_self.mpr fun r _ => ?_).symm
    cases s.readsHeader r <;> rfl
  goOn := fun _ hr => .inl hr
  stays := fun _ hr => hr
  ring := fun _ => rfl
  raised := fun _ => by simp

theorem trans (h : WrittenOut s t ws as) (k : WrittenOut t u vs bs) : WrittenOut s u (ws ++ vs) (as ++ bs) where
  only := h.only.trans k.only
  writes := by rw [k.writes, h.writes, List.append_assoc]
  held := by
    have harena : t.path.arenaBase = s.path.arenaBase := h.only .arenaBase (by simp)
    rw [k.held, h.held, List.filter_filter]
    refine List.filter_congr fun r _ => ?_
    rw [readsHeader_congr harena]
    cases s.readsHeader r with
    | none => rfl
    | some x =>
      simp only [Option.any_some, List.map_append, List.mem_append]
      by_cases hx : x ∈ as.map Prod.snd <;> simp [hx]
  goOn := fun r hr => (h.goOn r hr).elim (k.goOn r) fun hopen => .inr (k.stays r hopen)
  stays := fun r hr => k.stays r (h.stays r hr)
  ring := fun ring => by rw [k.ring, h.ring]
  raised := fun ring => by
    rw [k.raised, h.raised, or_assoc]
    refine or_congr Iff.rfl ?_
    simp only [answersHeld_congr (h.ring ring) (h.only.stamp (by simp)), List.mem_append, or_and_right, exists_or]

/-- A step before, or a step after, that writes nothing. -/
theorem of_initialRest (h : WrittenOut t u ws as) {rest : List InitUnit}
    (ht : t = s.setPath { s.path with initialRest := rest }) : WrittenOut s u ws as := by
  subst ht
  obtain ⟨honly, hwrites, hheld, hgoOn, hstays, hring, hraised⟩ := h
  exact ⟨((setInitialRest_only s rest).mono (by simp)).trans honly, hwrites, hheld, hgoOn, hstays, hring, hraised⟩

end WrittenOut

/-! ### One publication -/

theorem filterMap_ownWrite_injected (xs : List InjectedWrite) :
    (xs.map PortEvent.injected).filterMap PortEvent.ownWrite = xs := by
  rw [List.filterMap_map]
  exact List.filterMap_some

theorem filterMap_ownWrite_forwardRead (rs : List BusRead) (a : BusRead → Nat) :
    (rs.map fun r => PortEvent.forwardRead (a r) r.enables).filterMap PortEvent.ownWrite = [] := by
  rw [List.filterMap_map]
  exact List.filterMap_none _

theorem writeOut_path (s : State) (xs : List InjectedWrite) (p : Publication) :
    (s.writeOut xs p).path = ((s.forEach xs fun u x => u.emit (.injected x)).releaseReads p.target.records).path :=
  forEach_answerSlot_path _ _ _

theorem writeOut_spec (s : State) (xs : List InjectedWrite) (p : Publication) :
    WrittenOut s (s.writeOut xs p) xs (p.target.records.map fun r => (p.stamp, r)) := by
  obtain ⟨v, hv⟩ : ∃ v, v = s.forEach xs fun u x => u.emit (.injected x) := ⟨_, rfl⟩
  have hemit : v.path = { s.path with ports := s.path.ports ++ xs.map .injected } := hv ▸ forEach_injected_ports s xs
  have hemitted : OnlyChanges [.ports] s v := by
    rw [hv]
    exact (onlyChanges_forEach fun x _ => (emit_frame _ (by simp)).mpr (.refl _ x)).mpr (.refl _ _)
  have hpath : (s.writeOut xs p).path = (v.releaseReads p.target.records).path := hv ▸ writeOut_path s xs p
  have hreads : ∀ r, v.readsHeader r = s.readsHeader r := readsHeader_congr (by rw [hemit])
  have hrecords : (p.target.records.map fun r => (p.stamp, r)).map Prod.snd = p.target.records := by
    rw [List.map_map]
    exact List.map_id _
  rw [releaseReads_path, hemit] at hpath
  simp only [hreads] at hpath
  obtain ⟨w, hw⟩ : ∃ w, w = v.releaseReads p.target.records := ⟨_, rfl⟩
  have hreleased : OnlyChanges [.heldReads, .openReads, .ports] s w := by
    rw [hw]
    exact (releaseReads_frame _ (by simp)).mpr (hemitted.mono (by simp))
  have hnotices : w.notices = s.notices := hreleased .notices (by simp)
  have hring : ∀ ring : Fin 2, w.notices[ring] = { s.notices[ring] with attn := attn s ring } := fun ring => by
    rw [hnotices]
    rfl
  have hdone : s.writeOut xs p = w.forEach p.target.records fun u r => u.answerSlot p.stamp r := by rw [hw, hv]; rfl
  refine ⟨(writeOut_frame xs p (by simp)).mpr (.refl _ _), ?_, ?_, fun r hr => ?_, fun r hr => ?_, fun ring => ?_, fun ring => ?_⟩
  · rw [hpath]
    simp only [List.filterMap_append, filterMap_ownWrite_injected, filterMap_ownWrite_forwardRead, List.append_nil]
  · rw [hpath, hrecords]
  · rw [hpath]
    simp only [List.mem_filter, List.mem_append]
    cases (s.readsHeader r).any fun x => decide (x ∈ p.target.records)
    · exact .inl ⟨hr, rfl⟩
    · exact .inr (.inr ⟨hr, rfl⟩)
  · rw [hpath]
    exact List.mem_append_left _ hr
  · rw [hdone, (forEach_answerSlot_ring p.stamp ring p.target.records w).1, hring]
  · have hlevel : attn w ring = attn s ring := congrArg NoticeRing.attn (hring ring)
    rw [hdone, (forEach_answerSlot_ring p.stamp ring p.target.records w).2, hlevel]
    refine or_congr Iff.rfl ?_
    simp only [answersHeld_congr (hring ring) (hreleased.stamp (by simp)), List.mem_map, exists_exists_and_eq_and]

/-! ### The units begun, and the units not begun (R162) -/

theorem forEach_writeOut_spec (ps : List Publication) (s : State) :
    WrittenOut s (s.forEach ps fun u p => u.writeOut p.writes.tail p) (ps.flatMap fun p => p.writes.tail)
      (ps.flatMap fun p => p.target.records.map fun r => (p.stamp, r)) := by
  induction ps generalizing s with
  | nil => exact .refl s
  | cons p ps ih => exact (writeOut_spec s p.writes.tail p).trans (ih _)

theorem writeUnit_spec (s : State) (v : InitUnit) :
    WrittenOut s (s.writeUnit v) (s.unitWrites v) (v.records.map fun r => (0, r)) := by
  have hwrites : (s.setPath { s.path with initialRest := s.path.initialRest.tail }).unitWrites v = s.unitWrites v :=
    unitWrites_congr ((setInitialRest_only s _).mono (by simp)) (fun _ => rfl) v
  have hout := writeOut_spec (s.setPath { s.path with initialRest := s.path.initialRest.tail })
    ((s.setPath { s.path with initialRest := s.path.initialRest.tail }).unitWrites v)
    ((s.setPath { s.path with initialRest := s.path.initialRest.tail }).unitPublication v)
  rw [hwrites] at hout
  have hdone : s.writeUnit v = (s.setPath { s.path with initialRest := s.path.initialRest.tail }).writeOut (s.unitWrites v)
      ((s.setPath { s.path with initialRest := s.path.initialRest.tail }).unitPublication v) := by
    rw [State.writeUnit, hwrites]
  rw [hdone]
  exact hout.of_initialRest rfl

theorem writeUnit_initialRest (s : State) (v : InitUnit) :
    (s.writeUnit v).path.initialRest = s.path.initialRest.tail :=
  (writeOut_frame (T := [.notices, .heldReads, .openReads, .ports]) _ _ (fun _ h => h)).mpr
    (.refl _ (s.setPath { s.path with initialRest := s.path.initialRest.tail })) .initialRest (by simp)

/-- Each unit is written with the content that its owners hold, which no unit before it changes. -/
theorem forEach_writeUnit_spec (units : List InitUnit) (s : State) :
    WrittenOut s (s.forEach units State.writeUnit) (units.flatMap s.unitWrites)
      (units.flatMap fun v => v.records.map fun r => (0, r)) := by
  induction units generalizing s with
  | nil => exact .refl s
  | cons v units ih =>
    have hfirst := writeUnit_spec s v
    have hsame : units.flatMap (s.writeUnit v).unitWrites = units.flatMap s.unitWrites :=
      List.flatMap_congr fun x _ => unitWrites_congr (hfirst.only.mono (by simp)) hfirst.ring x
    have hrest := ih (s.writeUnit v)
    rw [hsame] at hrest
    exact hfirst.trans hrest

theorem forEach_writeUnit_initialRest (units : List InitUnit) (s : State) (h : s.path.initialRest = units) :
    (s.forEach units State.writeUnit).path.initialRest = [] := by
  induction units generalizing s with
  | nil => exact h
  | cons v units ih => exact ih (s.writeUnit v) ((writeUnit_initialRest s v).trans (by rw [h]; rfl))

end Sys2Proof.Machine
end

section
/-! The end of INIT (R1, R103, R145, R160, R162, R164): the line in IDLE, and the counts that pend. -/

namespace Sys2Proof.Machine

variable {s t u : State} {ring : Ring}

/-! ### Answers in the shadow (R160) -/

section Answers

variable {α : Type} {P : State → Prop} {Q : List Byte → Prop} {f : State → α → State} {place : α → Nat} {xs : List α}

/-- Each x of xs is answered by 8 bytes at its place, of which Q holds, and nothing else of the shadow changes; P is what
the answers keep. -/
def AnswersEach (P : State → Prop) (Q : List Byte → Prop) (f : State → α → State) (place : α → Nat)
    (xs : List α) : Prop :=
  ∀ u, ∀ x ∈ xs, P u → P (f u x) ∧ ∃ bytes : List Byte, bytes.length = 8 ∧ Q bytes ∧
    (f u x).shadow = writeBytes u.shadow (placedAt (place x) bytes)

theorem forEach_answers_outside (h : AnswersEach P Q f place xs) (hs : P s) {b : Nat}
    (hb : ∀ x ∈ xs, b < place x ∨ place x + 8 ≤ b) : readByte (s.forEach xs f).shadow b = readByte s.shadow b := by
  induction xs generalizing s with
  | nil => rfl
  | cons x xs ih =>
    obtain ⟨hnext, bytes, hlength, -, hshadow⟩ := h s x List.mem_cons_self hs
    have hx := hb x List.mem_cons_self
    refine (ih (fun u y hy => h u y (List.mem_cons_of_mem _ hy)) hnext fun y hy => hb y (List.mem_cons_of_mem _ hy)).trans ?_
    rw [hshadow]
    exact readByte_place_outside (by omega)

/-- Where two places are apart or the same, the last answer at each place stands. -/
theorem forEach_answers_at (h : AnswersEach P Q f place xs) (hs : P s) (hcanonical : s.ShadowCanonical) {a : Nat}
    (hapart : ∀ x ∈ xs, place x = a ∨ place x + 8 ≤ a ∨ a + 8 ≤ place x)
    (ha : (∃ x ∈ xs, place x = a) ∨ Q (readBytes s.shadow a 8)) : Q (readBytes (s.forEach xs f).shadow a 8) := by
  induction xs generalizing s with
  | nil => exact ha.resolve_left fun ⟨_, hx, _⟩ => nomatch hx
  | cons x xs ih =>
    obtain ⟨hnext, bytes, hlength, hbytes, hshadow⟩ := h s x List.mem_cons_self hs
    have hcanonicalNext : (f s x).ShadowCanonical := by
      rw [State.ShadowCanonical, hshadow]
      exact writeBytes_wf hcanonical
    refine ih (fun u y hy => h u y (List.mem_cons_of_mem _ hy)) hnext hcanonicalNext
      (fun y hy => hapart y (List.mem_cons_of_mem _ hy)) ?_
    rcases hapart x List.mem_cons_self with heq | hother
    · refine .inr ?_
      have hread := readBytes_place (a := place x) (xs := bytes) hcanonical
      rw [hlength, heq] at hread
      rw [hshadow, heq, hread]
      exact hbytes
    · rcases ha with ⟨y, hy, hplace⟩ | hq
      · rcases List.mem_cons.mp hy with rfl | hy
        · omega
        · exact .inl ⟨y, hy, hplace⟩
      · have hkept : readBytes (f s x).shadow a 8 = readBytes s.shadow a 8 := by
          rw [hshadow]
          exact readBytes_congr fun k hk => readByte_place_outside (by omega)
        exact .inr (hkept ▸ hq)

end Answers

/-! ### The entries of a ring -/

/-- The offset of the answer bytes of an entry (R160). -/
def Ring.answerPlace (ring : Ring) (i : Fin 64) : Nat := ring.entryOffset i + 0x10

theorem answerPlace_apart (ring : Ring) (i j : Fin 64) : ring.answerPlace i = ring.answerPlace j ∨
    ring.answerPlace i + 8 ≤ ring.answerPlace j ∨ ring.answerPlace j + 8 ≤ ring.answerPlace i := by
  cases ring <;> simp only [Ring.answerPlace, Ring.entryOffset, commandOffset, overrideOffset] <;> omega

theorem mem_arriving {n : Nat} {e : Fin 64 × RingEntry} : e ∈ s.arriving ring n ↔
    ∃ k < n, (entryIndex ((s.counts ring).consumer + BitVec.ofNat 16 k),
      ring.read s.shadow (entryIndex ((s.counts ring).consumer + BitVec.ofNat 16 k))) = e := by
  simp only [State.arriving, List.mem_map, List.mem_range]

theorem arriving_length (n : Nat) : (s.arriving ring n).length = n := by
  rw [State.arriving, List.length_map, List.length_range]

theorem codes_bounded (c : CommandCode) : 1 ≤ c.code.toNat ∧ c.code.toNat ≤ 10 := by
  cases c <;> decide

/-- The answer bytes of a command entry taken at a lug count. -/
def IsCommandAnswer (lc : Half) (bytes : List Byte) : Prop :=
  ∃ code item index, 1 ≤ code.toNat ∧ code.toNat ≤ 10 ∧ bytes = answerBytes code lc item index

theorem takeCommand_answers (s : State) (n : Nat) (lc : Half) : AnswersEach (fun u => u.lc = lc) (IsCommandAnswer lc)
    (fun u e => u.takeEntry e.1 e.2) (fun e : Fin 64 × RingEntry => Ring.command.answerPlace e.1) (s.arriving .command n) := by
  intro u e he hu
  obtain ⟨k, -, rfl⟩ := mem_arriving.mp he
  dsimp only [Ring.read, State.takeEntry]
  obtain ⟨i, hi⟩ : ∃ i, i = entryIndex ((s.counts .command).consumer + BitVec.ofNat 16 k) := ⟨_, rfl⟩
  obtain ⟨x, hx⟩ : ∃ x, x = readCommandEntry s.shadow i := ⟨_, rfl⟩
  rw [← hi, ← hx]
  have hdone := (doCommand_frame x.command fun _ hf => hf).mpr (OnlyChanges.refl _ u)
  have htaken := (takeCommand_frame i x fun _ hf => hf).mpr (OnlyChanges.refl _ u)
  refine ⟨Eq.trans (htaken .lc (by simp)) hu, (u.doCommand x.command).2.bytes u.lc, commandAnswer_length _ _,
    ⟨(u.doCommand x.command).2.code.code, (u.doCommand x.command).2.item, (u.doCommand x.command).2.index,
      (codes_bounded _).1, (codes_bounded _).2, by rw [hu]; rfl⟩, ?_⟩
  rw [takeCommand_shadow, hdone .shadow (by simp)]
  rfl

/-- R103: out of RUN and DRAIN an override entry is answered NOT_RUNNING, and counted. -/
theorem takeOverride_of_not_running (hstop : s.running = false) (i : Fin 64) (x : OverrideEntry) :
    s.takeOverride i x = (s.bump .overridesRefused).writeAnswer .override (.overrideAnswer i) (overrideOffset i)
      (overrideAnswerBytes 4 0 s.lc 0xFF) := by
  have hdecide : s.decideOverride x = (s, ⟨.notRunning, none, none⟩) := if_pos hstop
  rw [State.takeOverride, hdecide]
  rfl

theorem takeOverride_answers (s : State) (n : Nat) (lc : Half) :
    AnswersEach (fun u => u.running = false ∧ u.lc = lc) (· = overrideAnswerBytes 4 0 lc 0xFF)
      (fun u e => u.takeEntry e.1 e.2) (fun e : Fin 64 × RingEntry => Ring.override.answerPlace e.1)
      (s.arriving .override n) := by
  rintro u e he ⟨hstop, hlc⟩
  obtain ⟨k, -, rfl⟩ := mem_arriving.mp he
  dsimp only [Ring.read, State.takeEntry]
  rw [takeOverride_of_not_running hstop, hlc]
  exact ⟨⟨hstop, hlc⟩, _, rfl, rfl, rfl⟩

/-- What the taking of override entries out of RUN and DRAIN leaves: beside the answers, the counter (R103). -/
theorem forEach_takeOverride_stopped (es : List (Fin 64 × RingEntry)) (hes : ∀ e ∈ es, ∃ x, e.2 = .override x)
    (hstop : s.running = false) :
    OnlyChanges [.stats, .publications, .shadow] s (s.forEach es fun u e => u.takeEntry e.1 e.2) ∧
    Appends s (s.forEach es fun u e => u.takeEntry e.1 e.2) ∧
    (s.forEach es fun u e => u.takeEntry e.1 e.2).stats =
      s.stats.set (18 : Fin 24) (satAdd s.stats[(18 : Fin 24)] es.length) := by
  induction es generalizing s with
  | nil =>
    refine ⟨.refl _ _, .refl s, ?_⟩
    rw [List.length_nil, satAdd_zero]
    exact (Vector.set_getElem_self _).symm
  | cons e es ih =>
    obtain ⟨x, hx⟩ := hes e List.mem_cons_self
    have htaken : s.takeEntry e.1 e.2 = (s.bump .overridesRefused).writeAnswer .override (.overrideAnswer e.1)
        (overrideOffset e.1) (overrideAnswerBytes 4 0 s.lc 0xFF) := by
      rw [hx]
      exact takeOverride_of_not_running hstop e.1 x
    have honly : OnlyChanges [.stats, .publications, .shadow] s (s.takeEntry e.1 e.2) := by
      rw [htaken]
      exact (writeAnswer_frame _ _ _ _ (by simp)).mpr ((bump_frame _ (by simp)).mpr (.refl _ _))
    have happends : Appends s (s.takeEntry e.1 e.2) := by
      rw [htaken]
      exact ((Appends.refl s).same (u := s.bump .overridesRefused) rfl).writeAnswer nofun
    have hstats : (s.takeEntry e.1 e.2).stats = s.stats.set (18 : Fin 24) (satAdd s.stats[(18 : Fin 24)] 1) := by
      rw [htaken]
      rfl
    have hstopNext : (s.takeEntry e.1 e.2).running = false := by
      rw [State.running, show (s.takeEntry e.1 e.2).lineState = s.lineState from honly .lineState (by simp)]
      exact hstop
    obtain ⟨honlyRest, happendsRest, hstatsRest⟩ := ih (fun y hy => hes y (List.mem_cons_of_mem _ hy)) hstopNext
    refine ⟨honly.trans honlyRest, happends.trans happendsRest, hstatsRest.trans ?_⟩
    rw [hstats, get_set_self, Vector.set_set, satAdd_satAdd, List.length_cons, Nat.add_comm 1]

/-! ### The pending counts (R164) -/

/-- The entries of a pending count are taken; what follows is the ring's counts and the status block. -/
theorem takePending_taken (s : State) (ring : Ring) : ∃ u v : State, OnlyChanges [ring.field] s u ∧
    v = u.forEach (s.arriving ring (s.pendingEntries ring)) (fun x e => x.takeEntry e.1 e.2) ∧
    OnlyChanges [ring.field, .stamps, .publications] v (s.takePending ring) ∧ Appends v (s.takePending ring) := by
  have hsets : ∀ (x : State) (c : RingCounts), OnlyChanges [ring.field] x (x.setCounts ring c) := fun x c =>
    setCounts_only x ring c
  cases hpending : (s.counts ring).pendingCount with
  | none =>
    have hzero : s.pendingEntries ring = 0 := by rw [State.pendingEntries, hpending]; rfl
    rw [takePending_none hpending, hzero]
    exact ⟨s, s, .refl _ _, rfl, .refl _ _, .refl s⟩
  | some c =>
    have hcount : s.pendingEntries ring = (c - (s.counts ring).consumer).toNat := by rw [State.pendingEntries, hpending]; rfl
    have htaken : s.takePending ring = s.takeArrival ring c := by rw [State.takePending, hpending]
    rw [htaken, hcount]
    by_cases heq : c = (s.counts ring).consumer
    · have hnone : (c - (s.counts ring).consumer).toNat = 0 := ahead_eq_zero_iff.mpr heq
      rw [hnone, heq, takeArrival_of_eq]
      exact ⟨_, _, hsets s _, rfl, .refl _ _, .refl _⟩
    · obtain ⟨hafter, -⟩ := takeArrival_of_ne heq
      rw [hafter]
      refine ⟨_, _, hsets s _, rfl, (publish_frame _ _ (by simp)).mpr ((hsets _ _).mono (by simp)), ?_⟩
      exact ((Appends.refl _).quiet (hsets _ _) (by cases ring <;> simp [Ring.field])).publish

theorem takePending_counts (s : State) (ring : Ring) : (s.takePending ring).counts ring =
    ((s.counts ring).pendingCount.map fun c => ⟨c, c, none⟩).getD (s.counts ring) := by
  cases hpending : (s.counts ring).pendingCount with
  | none => exact congrArg (fun x : State => x.counts ring) (takePending_none hpending)
  | some c =>
    rw [Option.map_some, Option.getD_some]
    have htaken : s.takePending ring = s.takeArrival ring c := by rw [State.takePending, hpending]
    rw [htaken]
    by_cases heq : c = (s.counts ring).consumer
    · rw [heq, takeArrival_of_eq, counts_setCounts]
    · obtain ⟨hafter, hkept⟩ := takeArrival_of_ne heq
      rw [hafter, publish_counts, counts_setCounts, hkept]

theorem takePending_counts_other {other : Ring} (h : other ≠ ring) (s : State) :
    (s.takePending ring).counts other = s.counts other := by
  obtain ⟨u, v, hu, rfl, hv, -⟩ := takePending_taken s ring
  have hfield : other.field ≠ ring.field := by cases other <;> cases ring <;> first | exact absurd rfl h | exact nofun
  rw [counts_of_only hv (by cases other <;> simp_all [Ring.field]),
    counts_of_only (forEach_takeEntry_only u _) (by cases other <;> simp [Ring.field]),
    counts_of_only hu (by simpa using hfield)]

/-- The answers that a pending count leaves in the shadow, and what else of the shadow stands. -/
theorem takePending_answers {P : State → Prop} {Q : List Byte → Prop} (s : State) (ring : Ring)
    (h : AnswersEach P Q (fun u e => u.takeEntry e.1 e.2) (fun e : Fin 64 × RingEntry => ring.answerPlace e.1)
      (s.arriving ring (s.pendingEntries ring)))
    (hs : ∀ u, OnlyChanges [ring.field] s u → P u) :
    (s.ShadowCanonical → ∀ k < s.pendingEntries ring,
      Q ((s.takePending ring).answerAt (ring.entryOffset (entryIndex ((s.counts ring).consumer + BitVec.ofNat 16 k))))) ∧
    ∀ b, (∀ i, b < ring.answerPlace i ∨ ring.answerPlace i + 8 ≤ b) →
      readByte (s.takePending ring).shadow b = readByte s.shadow b := by
  obtain ⟨u, v, hu, rfl, hv, -⟩ := takePending_taken s ring
  have hbefore : u.shadow = s.shadow := hu .shadow (by cases ring <;> simp [Ring.field])
  have hafter : (s.takePending ring).shadow = _ := hv .shadow (by cases ring <;> simp [Ring.field])
  refine ⟨fun hcanonical k hk => ?_, fun b hb => ?_⟩
  · rw [State.answerAt, hafter]
    refine forEach_answers_at h (hs u hu) (by rw [State.ShadowCanonical, hbefore]; exact hcanonical)
      (fun e _ => answerPlace_apart ring _ _) (.inl ⟨_, mem_arriving.mpr ⟨k, hk, rfl⟩, rfl⟩)
  · rw [hafter, forEach_answers_outside h (hs u hu) fun e _ => hb e.1, hbefore]

/-- R103 and R164: the override entries that pend at the end of INIT. -/
theorem takePending_override (hstop : s.running = false) :
    OnlyChanges [.ovrRing, .stats, .stamps, .publications, .shadow] s (s.takePending .override) ∧
    Appends s (s.takePending .override) ∧
    (s.takePending .override).stats =
      s.stats.set (18 : Fin 24) (satAdd s.stats[(18 : Fin 24)] (s.pendingEntries .override)) ∧
    (s.ShadowCanonical → ∀ k < s.pendingEntries .override, (s.takePending .override).answerAt
      (overrideOffset (entryIndex (s.ovrRing.consumer + BitVec.ofNat 16 k))) = overrideAnswerBytes 4 0 s.lc 0xFF) := by
  obtain ⟨u, v, hu, rfl, hv, happends⟩ := takePending_taken s .override
  have hline : u.lineState = s.lineState := hu .lineState (by simp [Ring.field])
  have hstopNext : u.running = false := by rw [State.running, hline]; exact hstop
  obtain ⟨honly, hadds, hstats⟩ := forEach_takeOverride_stopped (s.arriving .override (s.pendingEntries .override))
    (fun e he => by
      obtain ⟨k, -, rfl⟩ := mem_arriving.mp he
      exact ⟨_, rfl⟩) hstopNext
  obtain ⟨hanswers, -⟩ := takePending_answers s .override (takeOverride_answers s _ s.lc) fun x hx =>
    ⟨by rw [State.running, show x.lineState = s.lineState from hx .lineState (by simp [Ring.field])]; exact hstop,
      hx .lc (by simp [Ring.field])⟩
  refine ⟨(hu.mono (by simp [Ring.field])).trans ((honly.mono (by simp)).trans (hv.mono (by simp [Ring.field]))),
    (((Appends.refl s).quiet hu (by simp [Ring.field])).trans hadds).trans happends, ?_, hanswers⟩
  have hbefore : u.stats = s.stats := hu .stats (by simp [Ring.field])
  rw [hv .stats (by simp [Ring.field]), hstats, hbefore, arriving_length]

/-- R164 and R166: the command entries that pend at the end of INIT. -/
theorem takePending_command (s : State) :
    Appends s (s.takePending .command) ∧
    (s.ShadowCanonical → ∀ k < s.pendingEntries .command, IsCommandAnswer s.lc ((s.takePending .command).answerAt
      (commandOffset (entryIndex (s.cmdRing.consumer + BitVec.ofNat 16 k))))) ∧
    ∀ i, (s.takePending .command).answerAt (overrideOffset i) = s.answerAt (overrideOffset i) := by
  obtain ⟨u, v, hu, rfl, -, happends⟩ := takePending_taken s .command
  have hadds : Appends u (u.forEach (s.arriving .command (s.pendingEntries .command)) fun x e => x.takeEntry e.1 e.2) :=
    (Appends.refl u).forEach_mem fun x e he => by
      obtain ⟨k, -, rfl⟩ := mem_arriving.mp he
      exact (Appends.refl x).takeCommand
  obtain ⟨hanswers, houtside⟩ := takePending_answers s .command (takeCommand_answers s _ s.lc) fun x hx =>
    hx .lc (by simp [Ring.field])
  refine ⟨(((Appends.refl s).quiet hu (by simp [Ring.field])).trans hadds).trans happends, hanswers, fun i => ?_⟩
  refine readBytes_congr fun k hk => houtside _ fun j => ?_
  simp only [Ring.answerPlace, Ring.entryOffset, commandOffset, overrideOffset]
  omega

/-! ### The line in IDLE (R1) -/

/-- The line in IDLE with its two records republished, before the pending counts are taken. -/
def State.idleEntered (s : State) : State := ((s.setLineState .idle).publish .lugTracker .status).publish .tally .stats

theorem endInit_eq (s : State) : s.endInit = (s.idleEntered.takePending .override).takePending .command := rfl

theorem idleEntered_only (s : State) : OnlyChanges [.lineState, .stamps, .publications] s s.idleEntered := by
  unfold State.idleEntered
  exact (publish_frame _ _ (by simp)).mpr ((publish_frame _ _ (by simp)).mpr ((setLineState_frame _ (by simp)).mpr (.refl _ _)))

theorem idleEntered_lineState (s : State) : s.idleEntered.lineState = .idle :=
  (publish_lineState _ _ _).trans (publish_lineState _ _ _)

theorem bytesAt_take {xs : List Byte} {m offset n : Nat} (h : offset + n ≤ m) :
    bytesAt (xs.take m) offset n = bytesAt xs offset n := by
  rw [bytesAt, bytesAt, List.drop_take, List.take_take, Nat.min_eq_left (by omega)]

theorem status_state_byte (s : State) : bytesAt ((s.image .status).take 64) 2 1 = [s.lineState.code] := by
  obtain ⟨-, himage⟩ := Proofs.publicationWritten
  obtain ⟨-, hword, -⟩ := himage s .status
  rw [bytesAt_take (by omega), ← bytesAt_take (m := 8) (by omega), hword]
  rfl

/-- R155: the status block that shows IDLE, and then the statistics, are the next publications. -/
theorem idleEntered_publications (hrest : s.path.initialRest = []) :
    ∃ a b : Publication, s.idleEntered.path.publications = s.path.publications ++ [a, b] ∧
      (a.target = .record .status ∧ a.stamp = s.stamp .status + 1 ∧
        a.writes.getLast?.map (fun x => bytesAt x.bytes 2 1) = some [1]) ∧
      b.target = .record .stats ∧ b.stamp = s.stamp .stats + 1 := by
  obtain ⟨hpublish, -⟩ := Proofs.publicationWritten
  have hunit : ∀ r : Record, r.initUnit ∉ s.path.initialRest := fun r => by rw [hrest]; exact List.not_mem_nil
  obtain ⟨xs, hstatus, -, -, hheader, hstamps, -⟩ := hpublish (s.setLineState .idle) .lugTracker .status (hunit _)
  obtain ⟨t, ht⟩ : ∃ t, t = (s.setLineState .idle).publish .lugTracker .status := ⟨_, rfl⟩
  rw [← ht] at hstatus hheader hstamps
  have hline : t.lineState = .idle := ht ▸ publish_lineState _ _ _
  have hinitial : t.path.initialRest = [] := by
    rw [ht, publish_initialRest]
    exact hrest
  obtain ⟨ys, hstats, -⟩ := hpublish t .tally .stats (by rw [hinitial]; exact List.not_mem_nil)
  have hentered : s.idleEntered = t.publish .tally .stats := by rw [ht]; rfl
  refine ⟨⟨.record .status, .lugTracker, s.path.event, s.stamp .status + 1, xs⟩,
    ⟨.record .stats, .tally, t.path.event, t.stamp .stats + 1, ys⟩, ?_, ⟨rfl, rfl, ?_⟩, rfl, ?_⟩
  · rw [hentered, hstats, hstatus, List.append_assoc]
    rfl
  · rw [hheader, Option.map_some, status_state_byte, hline]
    rfl
  · exact congrArg (· + 1) (hstamps .stats)

end Sys2Proof.Machine
end

section
/-! The command that ends the initial publication (R1, R145, R162, R164, R182). -/

namespace Sys2Proof.Machine

variable {s t u : State}

/-- The line at the event of the end, its initial publications no longer waiting. -/
def State.withoutInitial (s : State) : State :=
  s.beginEvent.setPath
    { s.beginEvent.path with publications := s.beginEvent.path.publications.filter fun p => !isInitial p }

theorem withoutInitial_only (s : State) : OnlyChanges [.publications, .event, .ports] s s.withoutInitial := by
  intro f hf
  cases f <;> first | rfl | (simp at hf)

/-- Every initial write made and answered, and the line still in INIT. -/
def State.allWritten (s : State) : State := s.beginEvent.writeBegun.forEach s.path.initialRest State.writeUnit

/-- The records whose initial write is answered, each with the stamp at which it was written. -/
def State.initialAnswers (s : State) : List (Half × Record) :=
  ((s.path.publications.filter isInitial).flatMap fun p => p.target.records.map fun r => (p.stamp, r)) ++
    s.path.initialRest.flatMap fun v => v.records.map fun r => (0, r)

theorem initialAnswers_records (s : State) : s.initialAnswers.map Prod.snd = s.initialRecords := by
  unfold State.initialAnswers State.initialRecords
  rw [List.map_append, List.map_flatMap, List.map_flatMap]
  simp only [List.map_map, Function.comp_def, List.map_id']

theorem exists_mem_initialAnswers {ring : Fin 2} : (∃ a ∈ s.initialAnswers, s.answersHeld ring a.1 a.2) ↔
    (∃ p ∈ s.path.publications.filter isInitial, ∃ r ∈ p.target.records, s.answersHeld ring p.stamp r) ∨
      ∃ v ∈ s.path.initialRest, ∃ r ∈ v.records, s.answersHeld ring 0 r := by
  unfold State.initialAnswers
  simp only [List.mem_append, or_and_right, exists_or, List.mem_flatMap, List.mem_map]
  constructor
  · rintro (⟨_, ⟨p, hp, r, hr, rfl⟩, hheld⟩ | ⟨_, ⟨v, hv, r, hr, rfl⟩, hheld⟩)
    · exact .inl ⟨p, hp, r, hr, hheld⟩
    · exact .inr ⟨v, hv, r, hr, hheld⟩
  · rintro (⟨p, hp, r, hr, hheld⟩ | ⟨v, hv, r, hr, hheld⟩)
    · exact .inl ⟨_, ⟨p, hp, r, hr, rfl⟩, hheld⟩
    · exact .inr ⟨_, ⟨v, hv, r, hr, rfl⟩, hheld⟩

theorem allWritten_spec (s : State) : WrittenOut s.withoutInitial s.allWritten
    ((s.path.publications.filter isInitial).flatMap (fun p => p.writes.tail) ++
      s.path.initialRest.flatMap s.beginEvent.unitWrites) s.initialAnswers := by
  have hbegun : WrittenOut s.withoutInitial s.beginEvent.writeBegun _ _ :=
    forEach_writeOut_spec (s.path.publications.filter isInitial) s.withoutInitial
  have hfiltered : OnlyChanges [.publications] s.beginEvent s.withoutInitial := by
    intro f hf
    cases f <;> first | rfl | (simp at hf)
  have hsame : s.path.initialRest.flatMap s.beginEvent.writeBegun.unitWrites =
      s.path.initialRest.flatMap s.beginEvent.unitWrites :=
    List.flatMap_congr fun v _ => unitWrites_congr (s := s.beginEvent)
      ((hfiltered.mono (by simp)).trans (hbegun.only.mono (by simp))) hbegun.ring v
  have hunits := forEach_writeUnit_spec s.path.initialRest s.beginEvent.writeBegun
  rw [hsame] at hunits
  exact hbegun.trans hunits

theorem allWritten_initialRest (s : State) : s.allWritten.path.initialRest = [] :=
  forEach_writeUnit_initialRest _ _
    ((writeBegun_frame (T := [.notices, .publications, .heldReads, .openReads, .ports]) (fun _ h => h)).mpr
      (.refl _ s.beginEvent) .initialRest (by simp))

theorem exec_initialPublicationEnd (hreleased : s.resetLow = false) (hinit : s.lineState = .init) :
    exec .initialPublicationEnd s = .next s.allWritten.endInit :=
  congrArg Host.Outcome.next (if_pos ⟨hreleased, hinit⟩)

/-- The end of INIT after the line entered IDLE: the pending counts are taken, the override ring's first (R103, R164). -/
theorem endInit_pending (s : State) :
    (∀ ring, s.endInit.counts ring = ((s.counts ring).pendingCount.map fun c => ⟨c, c, none⟩).getD (s.counts ring)) ∧
    Appends s.idleEntered s.endInit ∧
    OnlyChanges [.lineState, .config, .lugLine, .boards, .heads, .solver, .held, .bins, .logUnit, .runs, .stats, .cmdRing,
      .ovrRing, .banks, .sawMask, .routes, .notices, .stamps, .publications, .shadow] s s.endInit ∧
    (s.ShadowCanonical → ∀ k < s.pendingEntries .override, s.endInit.answerAt
      (overrideOffset (entryIndex (s.ovrRing.consumer + BitVec.ofNat 16 k))) = overrideAnswerBytes 4 0 s.lc 0xFF) ∧
    (s.ShadowCanonical → ∀ k < s.pendingEntries .command, IsCommandAnswer s.lc (s.endInit.answerAt
      (commandOffset (entryIndex (s.cmdRing.consumer + BitVec.ofNat 16 k))))) ∧
    (s.cmdRing.pendingCount = none → s.endInit.lineState = .idle ∧
      s.endInit.stats = s.stats.set (18 : Fin 24) (satAdd s.stats[(18 : Fin 24)] (s.pendingEntries .override))) ∧
    (s.cmdRing.pendingCount = none → s.ovrRing.pendingCount = none → s.endInit = s.idleEntered) := by
  obtain ⟨v, hv⟩ : ∃ v, v = s.idleEntered := ⟨_, rfl⟩
  obtain ⟨w, hw⟩ : ∃ w, w = v.takePending .override := ⟨_, rfl⟩
  have hend : s.endInit = w.takePending .command := by rw [endInit_eq, hw, hv]
  have hidle : OnlyChanges [.lineState, .stamps, .publications] s v := hv ▸ idleEntered_only s
  have hline : v.lineState = .idle := hv ▸ idleEntered_lineState s
  have hstop : v.running = false := by rw [State.running, hline]; rfl
  have hcounts : ∀ ring, v.counts ring = s.counts ring := fun ring =>
    counts_of_only hidle (by cases ring <;> simp [Ring.field])
  have hcommands : w.counts .command = s.counts .command := by
    rw [hw, takePending_counts_other (other := .command) (ring := .override) nofun, hcounts]
  have hpendingOverride : v.pendingEntries .override = s.pendingEntries .override := by
    rw [State.pendingEntries, hcounts]
    rfl
  have hpendingCommand : w.pendingEntries .command = s.pendingEntries .command := by
    rw [State.pendingEntries, hcommands]
    rfl
  obtain ⟨honly, happends, hstats, hanswersOverride⟩ := takePending_override hstop
  obtain ⟨happendsCommand, hanswersCommand, hkept⟩ := takePending_command w
  rw [← hw] at honly happends hstats hanswersOverride
  have hlc : v.lc = s.lc := hidle .lc (by simp)
  have hcanonical : s.ShadowCanonical → v.ShadowCanonical := fun hs => by
    rw [State.ShadowCanonical, show v.shadow = s.shadow from hidle .shadow (by simp)]
    exact hs
  have hnoCommand : s.cmdRing.pendingCount = none → w.takePending .command = w := fun hnone =>
    takePending_none (s := w) (ring := .command) (hcommands ▸ hnone)
  rw [← hv, hend]
  refine ⟨fun ring => ?_, happends.trans happendsCommand, ?_, fun hs k hk => ?_, fun hs k hk => ?_, fun hnone => ?_,
    fun hnone hnoneOverride => ?_⟩
  · cases ring with
    | command => rw [takePending_counts, hcommands]
    | override =>
      rw [takePending_counts_other (other := .override) (ring := .command) nofun, hw, takePending_counts, hcounts]
  · exact (takePending_frame _ (by simp)).mpr ((hidle.mono (by simp)).trans (honly.mono (by simp)))
  · rw [hkept, ← show v.ovrRing = s.ovrRing from hcounts .override,
      hanswersOverride (hcanonical hs) k (by rw [hpendingOverride]; exact hk), hlc]
  · have hanswer := hanswersCommand (hw ▸ (Keeps.refl v).takePending.shadow (hcanonical hs)) k
      (by rw [hpendingCommand]; exact hk)
    rw [show w.cmdRing = s.cmdRing from hcommands, show w.lc = v.lc from honly .lc (by simp), hlc] at hanswer
    exact hanswer
  · rw [hnoCommand hnone, hstats, hpendingOverride, show v.stats = s.stats from hidle .stats (by simp)]
    exact ⟨Eq.trans (honly .lineState (by simp)) hline, rfl⟩
  · rw [hnoCommand hnone, hw, takePending_none (hcounts .override ▸ hnoneOverride)]

end Sys2Proof.Machine

namespace Sys2Proof.Proofs
open Sys2Proof.Machine

/-- Settles O6: the initial writes, the line in IDLE, and the pending counts, the override ring's first. -/
theorem initialPublicationEnds : Obligations.InitialPublicationEnds := by
  intro s hreleased hinit begun
  obtain ⟨u, hu⟩ : ∃ u, u = s.allWritten := ⟨_, rfl⟩
  have hout := hu ▸ allWritten_spec s
  have hrest : u.path.initialRest = [] := hu ▸ allWritten_initialRest s
  have hwritten : OnlyChanges [.notices, .publications, .initialRest, .heldReads, .openReads, .event, .ports] s u :=
    ((withoutInitial_only s).mono (by simp)).trans (hout.only.mono (by simp))
  have hfirst : u.path.publications = s.path.publications.filter fun p => !isInitial p := hout.only .publications (by simp)
  have hstamp : ∀ r, u.stamp r = s.stamp r := hwritten.stamp (by simp)
  have hcounts : ∀ ring, u.counts ring = s.counts ring := fun ring =>
    counts_of_only hwritten (by cases ring <;> simp [Ring.field])
  have hpending : ∀ ring, u.pendingEntries ring = s.pendingEntries ring := fun ring => by
    rw [State.pendingEntries, hcounts]
    rfl
  have hcommand : u.cmdRing = s.cmdRing := hcounts .command
  have hoverride : u.ovrRing = s.ovrRing := hcounts .override
  have hlc : u.lc = s.lc := hwritten .lc (by simp)
  have hstats : u.stats = s.stats := hwritten .stats (by simp)
  have hcanonical : s.ShadowCanonical → u.ShadowCanonical := fun hs => by
    rw [State.ShadowCanonical, show u.shadow = s.shadow from hwritten .shadow (by simp)]
    exact hs
  obtain ⟨a, b, hpublications, ha, hb⟩ := idleEntered_publications hrest
  obtain ⟨hfinal, ⟨more, hmore, hplain⟩, honly, hanswersOverride, hanswersCommand, hidle, hnothing⟩ := endInit_pending u
  rw [hstamp] at ha hb
  simp only [hpending, hcommand, hoverride, hlc, hstats] at hanswersOverride hanswersCommand hidle hnothing
  have hheld : u.endInit.path.heldReads = u.path.heldReads := honly .heldReads (by simp)
  have hopen : u.endInit.path.openReads = u.path.openReads := honly .openReads (by simp)
  refine ⟨u.endInit, a, b, more, hu ▸ exec_initialPublicationEnd hreleased hinit, ?_, ?_, ?_, fun r hr => ?_, ?_, hplain,
    ha, hb, fun ring hnone => ?_, fun ring c hsome => ?_, fun hs => hanswersOverride (hcanonical hs),
    fun hs => hanswersCommand (hcanonical hs), hidle, fun hnone hnoneOverride => ?_⟩
  · exact Eq.trans (honly .initialRest (by simp)) hrest
  · rw [show u.endInit.path.ports = u.path.ports from honly .ports (by simp)]
    exact hout.writes
  · rw [hheld, hout.held, initialAnswers_records]
    rfl
  · rw [hheld, hopen]
    exact hout.goOn r hr
  · rw [hmore, hpublications, hfirst]
  · rw [hfinal, hcounts, hnone]
    rfl
  · rw [hfinal, hcounts, hsome]
    rfl
  · obtain ⟨-, hrepublished⟩ := endInit_spec hrest fun ring => by
      rw [hcounts]
      cases ring with
      | command => exact hnone
      | override => exact hnoneOverride
    have hsame : u.endInit = u.idleEntered := hnothing hnone hnoneOverride
    have hentered : OnlyChanges [.lineState, .stamps, .publications] u u.endInit := hsame ▸ idleEntered_only u
    have hnotices : u.endInit.notices = u.notices := hentered .notices (by simp)
    refine ⟨?_, fun r => ?_, fun ring => ?_, (hwritten.mono (by simp)).trans (hentered.mono (by simp))⟩
    · rw [hsame] at hmore
      exact List.append_right_eq_self.mp hmore.symm
    · rw [hrepublished r, hstamp]
    · have hlevel : attn u.endInit ring = attn u ring := by rw [attn, hnotices]; rfl
      rw [hnotices, hlevel]
      exact ⟨hout.ring ring, (hout.raised ring).trans (or_congr Iff.rfl exists_mem_initialAnswers)⟩

end Sys2Proof.Proofs
end
